-- ==== Sys2Proof/Word.lean ====
section
/-! DEFINITION. The words FPCORE works on: containers, lanes, the lane mask, the command word, the control register
and flag sets (spec 00_scope.md R11 to R13, 10_state.md R20, R31). -/

namespace Sys2Proof

/-- A container port: the widest container, 512 bits (00_scope.md R11, MAXVL); a command of a narrower vector-width
class reads or drives its low bits only. -/
abbrev Container := BitVec 512

/-- The lane mask K and the mask result KRESULT (10_state.md R27, R30). -/
abbrev MaskWord := BitVec 32

/-- The command word CMD (30_encoding.md R71). -/
abbrev CmdWord := BitVec 32

/-- The control register CTRL (10_state.md R24). -/
abbrev CtrlWord := BitVec 16

/-- A set of the six exception flags, in the bit order I D Z O U P (10_state.md R31). -/
abbrev Flags := BitVec 6

/-- The precision of a command: binary32 or binary64 (40_numerics.md R100). -/
inductive Prec where
  | single
  | double
deriving DecidableEq, Repr

/-- The element width W (00_scope.md R11). -/
def Prec.width : Prec → Nat
  | .single => 32
  | .double => 64

/-- One lane: an IEEE-754 bit pattern of the command's element width (00_scope.md R13, 40_numerics.md R100). -/
abbrev Lane (p : Prec) := BitVec p.width

end Sys2Proof
end

