-- ==== Sys2Proof/Config.lean ====
section
/-! DEFINITION. What FPCORE's surroundings fix and the spec leaves open: the two OPEN parameters (92_eei_decisions.md,
"Open parameters") and the free values (93_implementation_defined.md P5, P7, P15). An opaque constant has no body:
nothing can be proved of its value. -/

namespace Sys2Proof

/-- CTRL_RESET, the control register's value when the machine starts (70_reset_and_hazards.md R342). The spec leaves it
OPEN and suggests this value. DESIGN CHOICE (log entry 3), unsafe: a claim about the reset state could lean on it. -/
def Config.ctrlReset : CtrlWord := 0x1F80#16

/-- GETMANT_SIGN_COMPUTED, the sign function of GETMANT's sign policy 2 (46_getexp_getmant.md R244), OPEN in the spec:
"No claim should depend on it" (log entry 9). -/
opaque Config.getmantSignComputed : Bool → Bool

/-- The free value of the container port RESULT where a response does not define it: on a fault, and after CMP and FPCLASS
(93_implementation_defined.md P5, P7; log entry 6). -/
opaque Config.freeResult : Nat → Container

/-- The free value of the port KRESULT where a response does not define it: on a fault and after every operation but
CMP and FPCLASS (93_implementation_defined.md P5, P7; log entry 6). -/
opaque Config.freeKresult : Nat → MaskWord

/-- The free value of the 22 bits of the status context between commands (93_implementation_defined.md P15; log
entry 7). -/
opaque Config.freeContext : Nat → BitVec 22

end Sys2Proof
end

