-- ==== Sys2Proof/Syntax.lean ====
section
/-! DEFINITION. The instructions of FPCORE, one constructor per row of spec/opcode_table.json, and the command record
they are read from (30_encoding.md R70 to R73). -/

namespace Sys2Proof

/-- The vector-width class (30_encoding.md R71, field `vl`; code 3 is reserved and is no class). -/
inductive VecLen where
  | v128
  | v256
  | v512
deriving DecidableEq, Repr

/-- Packed or scalar (30_encoding.md R71, field `form`). -/
inductive Form where
  | packed
  | scalar
deriving DecidableEq, Repr

/-- The twenty operations, in the order of 30_encoding.md R72. -/
inductive Op where
  | add
  | sub
  | mul
  | div
  | min
  | max
  | sqrt
  | fmadd
  | fmsub
  | fnmadd
  | fnmsub
  | fixupimm
  | fpclass
  | getexp
  | getmant
  | range
  | reduce
  | rndscale
  | scalef
  | cmp
deriving DecidableEq, Repr

/-- The operands of an instruction that the command word carries (30_encoding.md R73): the vector-width class, the mask
enable, the mask policy (`zero`: Zero, else Merge) and the immediate byte. The containers, the prior destination and the
lane mask are port values (10_state.md R26, R27). -/
structure Fields where
  vl : VecLen
  maskEn : Bool
  zero : Bool
  imm8 : BitVec 8
deriving DecidableEq, Repr

/-- The command record of 30_encoding.md R70 as the word of R71 carries it, before any check: every field raw, the two
reserved fields among them. -/
structure Command where
  op : BitVec 5
  prec : BitVec 1
  form : BitVec 1
  vl : BitVec 2
  maskEn : BitVec 1
  zero : BitVec 1
  rsvdLow : BitVec 5
  imm8 : BitVec 8
  rsvdHigh : BitVec 8
deriving DecidableEq, Repr

/-- Why a command is reserved (30_encoding.md R75). -/
inductive Reserved where
  /-- `op` is 20 to 31 -/
  | operation (code : BitVec 5)
  /-- `vl` is 3 -/
  | vectorLength
  /-- a bit of 15:11 or 31:24 is set -/
  | reservedBits
deriving DecidableEq, Repr

/-- The eighty instructions: an operation with a precision and a form (30_encoding.md R73). -/
inductive Instr where
  | addPs (f : Fields)
  | addPd (f : Fields)
  | addSs (f : Fields)
  | addSd (f : Fields)
  | subPs (f : Fields)
  | subPd (f : Fields)
  | subSs (f : Fields)
  | subSd (f : Fields)
  | mulPs (f : Fields)
  | mulPd (f : Fields)
  | mulSs (f : Fields)
  | mulSd (f : Fields)
  | divPs (f : Fields)
  | divPd (f : Fields)
  | divSs (f : Fields)
  | divSd (f : Fields)
  | minPs (f : Fields)
  | minPd (f : Fields)
  | minSs (f : Fields)
  | minSd (f : Fields)
  | maxPs (f : Fields)
  | maxPd (f : Fields)
  | maxSs (f : Fields)
  | maxSd (f : Fields)
  | sqrtPs (f : Fields)
  | sqrtPd (f : Fields)
  | sqrtSs (f : Fields)
  | sqrtSd (f : Fields)
  | fmaddPs (f : Fields)
  | fmaddPd (f : Fields)
  | fmaddSs (f : Fields)
  | fmaddSd (f : Fields)
  | fmsubPs (f : Fields)
  | fmsubPd (f : Fields)
  | fmsubSs (f : Fields)
  | fmsubSd (f : Fields)
  | fnmaddPs (f : Fields)
  | fnmaddPd (f : Fields)
  | fnmaddSs (f : Fields)
  | fnmaddSd (f : Fields)
  | fnmsubPs (f : Fields)
  | fnmsubPd (f : Fields)
  | fnmsubSs (f : Fields)
  | fnmsubSd (f : Fields)
  | fixupimmPs (f : Fields)
  | fixupimmPd (f : Fields)
  | fixupimmSs (f : Fields)
  | fixupimmSd (f : Fields)
  | fpclassPs (f : Fields)
  | fpclassPd (f : Fields)
  | fpclassSs (f : Fields)
  | fpclassSd (f : Fields)
  | getexpPs (f : Fields)
  | getexpPd (f : Fields)
  | getexpSs (f : Fields)
  | getexpSd (f : Fields)
  | getmantPs (f : Fields)
  | getmantPd (f : Fields)
  | getmantSs (f : Fields)
  | getmantSd (f : Fields)
  | rangePs (f : Fields)
  | rangePd (f : Fields)
  | rangeSs (f : Fields)
  | rangeSd (f : Fields)
  | reducePs (f : Fields)
  | reducePd (f : Fields)
  | reduceSs (f : Fields)
  | reduceSd (f : Fields)
  | rndscalePs (f : Fields)
  | rndscalePd (f : Fields)
  | rndscaleSs (f : Fields)
  | rndscaleSd (f : Fields)
  | scalefPs (f : Fields)
  | scalefPd (f : Fields)
  | scalefSs (f : Fields)
  | scalefSd (f : Fields)
  | cmpPs (f : Fields)
  | cmpPd (f : Fields)
  | cmpSs (f : Fields)
  | cmpSd (f : Fields)
deriving DecidableEq, Repr

end Sys2Proof
end

