-- ==== Sys2Proof/WellFormed.lean ====
section
/-! DEFINITION. Which commands are legal (30_encoding.md R75, 70_reset_and_hazards.md R344 item 2). An `Instr` cannot be
ill formed: its vector-width class has no fourth value and it holds no reserved bit, so the checks stand on the raw
command record an instruction is read from. -/

namespace Sys2Proof

/-- `op` names one of the operations 0 to 19 (30_encoding.md R72). -/
def Command.opDefined (c : Command) : Bool := decide (c.op.toNat < 20)

/-- `vl` is 0, 1 or 2 (30_encoding.md R71). -/
def Command.vlDefined (c : Command) : Bool := decide (c.vl ≠ 3#2)

/-- Every reserved bit is 0 (30_encoding.md R71). -/
def Command.reservedClear (c : Command) : Bool := decide (c.rsvdLow = 0#5 ∧ c.rsvdHigh = 0#8)

/-- A legal command (30_encoding.md R75). -/
def Command.wellFormed (c : Command) : Bool := c.opDefined && c.vlDefined && c.reservedClear

end Sys2Proof
end

