-- ==== Sys2Proof/Decode.lean ====
section
/-! DEFINITION. The decoder, total on every command word and rejecting a reserved one by name (30_encoding.md R71 to R75),
and the encoder, written from the same tables. -/

namespace Sys2Proof

/-- The fields of a command word (30_encoding.md R71). -/
def Command.ofWord (w : CmdWord) : Command where
  op := w.extractLsb' 0 5
  prec := w.extractLsb' 5 1
  form := w.extractLsb' 6 1
  vl := w.extractLsb' 7 2
  maskEn := w.extractLsb' 9 1
  zero := w.extractLsb' 10 1
  rsvdLow := w.extractLsb' 11 5
  imm8 := w.extractLsb' 16 8
  rsvdHigh := w.extractLsb' 24 8

/-- The word a command record is carried in (30_encoding.md R71): the fields from bit 31 down to bit 0. -/
def Command.toWord (c : Command) : CmdWord :=
  c.rsvdHigh ++ c.imm8 ++ c.rsvdLow ++ c.zero ++ c.maskEn ++ c.vl ++ c.form ++ c.prec ++ c.op

/-- The `op` field of an operation (30_encoding.md R72). -/
def Op.code : Op → BitVec 5
  | .add => 0#5
  | .sub => 1#5
  | .mul => 2#5
  | .div => 3#5
  | .min => 4#5
  | .max => 5#5
  | .sqrt => 6#5
  | .fmadd => 7#5
  | .fmsub => 8#5
  | .fnmadd => 9#5
  | .fnmsub => 10#5
  | .fixupimm => 11#5
  | .fpclass => 12#5
  | .getexp => 13#5
  | .getmant => 14#5
  | .range => 15#5
  | .reduce => 16#5
  | .rndscale => 17#5
  | .scalef => 18#5
  | .cmp => 19#5

/-- The operation an `op` field names; 20 to 31 name none (30_encoding.md R72). -/
def Op.ofCode (code : BitVec 5) : Option Op :=
  [Op.add, .sub, .mul, .div, .min, .max, .sqrt, .fmadd, .fmsub, .fnmadd,
   .fnmsub, .fixupimm, .fpclass, .getexp, .getmant, .range, .reduce, .rndscale, .scalef, .cmp][code.toNat]?

/-- The `prec` field (30_encoding.md R71). -/
def Prec.code : Prec → BitVec 1
  | .single => 0#1
  | .double => 1#1

/-- The precision a `prec` field names (30_encoding.md R71). -/
def Prec.ofCode (b : BitVec 1) : Prec := if b = 0#1 then .single else .double

/-- The `form` field (30_encoding.md R71). -/
def Form.code : Form → BitVec 1
  | .packed => 0#1
  | .scalar => 1#1

/-- The form a `form` field names (30_encoding.md R71). -/
def Form.ofCode (b : BitVec 1) : Form := if b = 0#1 then .packed else .scalar

/-- The `vl` field (30_encoding.md R71). -/
def VecLen.code : VecLen → BitVec 2
  | .v128 => 0#2
  | .v256 => 1#2
  | .v512 => 2#2

/-- The vector-width class a `vl` field names; 3 names none (30_encoding.md R71). -/
def VecLen.ofCode (b : BitVec 2) : Option VecLen :=
  if b = 0#2 then some .v128 else if b = 1#2 then some .v256 else if b = 2#2 then some .v512 else none

/-- The operation of an instruction (30_encoding.md R73). -/
def Instr.op : Instr → Op
  | .addPs _ | .addPd _ | .addSs _ | .addSd _ => .add
  | .subPs _ | .subPd _ | .subSs _ | .subSd _ => .sub
  | .mulPs _ | .mulPd _ | .mulSs _ | .mulSd _ => .mul
  | .divPs _ | .divPd _ | .divSs _ | .divSd _ => .div
  | .minPs _ | .minPd _ | .minSs _ | .minSd _ => .min
  | .maxPs _ | .maxPd _ | .maxSs _ | .maxSd _ => .max
  | .sqrtPs _ | .sqrtPd _ | .sqrtSs _ | .sqrtSd _ => .sqrt
  | .fmaddPs _ | .fmaddPd _ | .fmaddSs _ | .fmaddSd _ => .fmadd
  | .fmsubPs _ | .fmsubPd _ | .fmsubSs _ | .fmsubSd _ => .fmsub
  | .fnmaddPs _ | .fnmaddPd _ | .fnmaddSs _ | .fnmaddSd _ => .fnmadd
  | .fnmsubPs _ | .fnmsubPd _ | .fnmsubSs _ | .fnmsubSd _ => .fnmsub
  | .fixupimmPs _ | .fixupimmPd _ | .fixupimmSs _ | .fixupimmSd _ => .fixupimm
  | .fpclassPs _ | .fpclassPd _ | .fpclassSs _ | .fpclassSd _ => .fpclass
  | .getexpPs _ | .getexpPd _ | .getexpSs _ | .getexpSd _ => .getexp
  | .getmantPs _ | .getmantPd _ | .getmantSs _ | .getmantSd _ => .getmant
  | .rangePs _ | .rangePd _ | .rangeSs _ | .rangeSd _ => .range
  | .reducePs _ | .reducePd _ | .reduceSs _ | .reduceSd _ => .reduce
  | .rndscalePs _ | .rndscalePd _ | .rndscaleSs _ | .rndscaleSd _ => .rndscale
  | .scalefPs _ | .scalefPd _ | .scalefSs _ | .scalefSd _ => .scalef
  | .cmpPs _ | .cmpPd _ | .cmpSs _ | .cmpSd _ => .cmp

/-- The precision of an instruction (30_encoding.md R73). -/
def Instr.prec : Instr → Prec
  | .addPs _ | .addSs _ => .single
  | .subPs _ | .subSs _ => .single
  | .mulPs _ | .mulSs _ => .single
  | .divPs _ | .divSs _ => .single
  | .minPs _ | .minSs _ => .single
  | .maxPs _ | .maxSs _ => .single
  | .sqrtPs _ | .sqrtSs _ => .single
  | .fmaddPs _ | .fmaddSs _ => .single
  | .fmsubPs _ | .fmsubSs _ => .single
  | .fnmaddPs _ | .fnmaddSs _ => .single
  | .fnmsubPs _ | .fnmsubSs _ => .single
  | .fixupimmPs _ | .fixupimmSs _ => .single
  | .fpclassPs _ | .fpclassSs _ => .single
  | .getexpPs _ | .getexpSs _ => .single
  | .getmantPs _ | .getmantSs _ => .single
  | .rangePs _ | .rangeSs _ => .single
  | .reducePs _ | .reduceSs _ => .single
  | .rndscalePs _ | .rndscaleSs _ => .single
  | .scalefPs _ | .scalefSs _ => .single
  | .cmpPs _ | .cmpSs _ => .single
  | .addPd _ | .addSd _ => .double
  | .subPd _ | .subSd _ => .double
  | .mulPd _ | .mulSd _ => .double
  | .divPd _ | .divSd _ => .double
  | .minPd _ | .minSd _ => .double
  | .maxPd _ | .maxSd _ => .double
  | .sqrtPd _ | .sqrtSd _ => .double
  | .fmaddPd _ | .fmaddSd _ => .double
  | .fmsubPd _ | .fmsubSd _ => .double
  | .fnmaddPd _ | .fnmaddSd _ => .double
  | .fnmsubPd _ | .fnmsubSd _ => .double
  | .fixupimmPd _ | .fixupimmSd _ => .double
  | .fpclassPd _ | .fpclassSd _ => .double
  | .getexpPd _ | .getexpSd _ => .double
  | .getmantPd _ | .getmantSd _ => .double
  | .rangePd _ | .rangeSd _ => .double
  | .reducePd _ | .reduceSd _ => .double
  | .rndscalePd _ | .rndscaleSd _ => .double
  | .scalefPd _ | .scalefSd _ => .double
  | .cmpPd _ | .cmpSd _ => .double

/-- The form of an instruction (30_encoding.md R73). -/
def Instr.form : Instr → Form
  | .addPs _ | .addPd _ => .packed
  | .subPs _ | .subPd _ => .packed
  | .mulPs _ | .mulPd _ => .packed
  | .divPs _ | .divPd _ => .packed
  | .minPs _ | .minPd _ => .packed
  | .maxPs _ | .maxPd _ => .packed
  | .sqrtPs _ | .sqrtPd _ => .packed
  | .fmaddPs _ | .fmaddPd _ => .packed
  | .fmsubPs _ | .fmsubPd _ => .packed
  | .fnmaddPs _ | .fnmaddPd _ => .packed
  | .fnmsubPs _ | .fnmsubPd _ => .packed
  | .fixupimmPs _ | .fixupimmPd _ => .packed
  | .fpclassPs _ | .fpclassPd _ => .packed
  | .getexpPs _ | .getexpPd _ => .packed
  | .getmantPs _ | .getmantPd _ => .packed
  | .rangePs _ | .rangePd _ => .packed
  | .reducePs _ | .reducePd _ => .packed
  | .rndscalePs _ | .rndscalePd _ => .packed
  | .scalefPs _ | .scalefPd _ => .packed
  | .cmpPs _ | .cmpPd _ => .packed
  | .addSs _ | .addSd _ => .scalar
  | .subSs _ | .subSd _ => .scalar
  | .mulSs _ | .mulSd _ => .scalar
  | .divSs _ | .divSd _ => .scalar
  | .minSs _ | .minSd _ => .scalar
  | .maxSs _ | .maxSd _ => .scalar
  | .sqrtSs _ | .sqrtSd _ => .scalar
  | .fmaddSs _ | .fmaddSd _ => .scalar
  | .fmsubSs _ | .fmsubSd _ => .scalar
  | .fnmaddSs _ | .fnmaddSd _ => .scalar
  | .fnmsubSs _ | .fnmsubSd _ => .scalar
  | .fixupimmSs _ | .fixupimmSd _ => .scalar
  | .fpclassSs _ | .fpclassSd _ => .scalar
  | .getexpSs _ | .getexpSd _ => .scalar
  | .getmantSs _ | .getmantSd _ => .scalar
  | .rangeSs _ | .rangeSd _ => .scalar
  | .reduceSs _ | .reduceSd _ => .scalar
  | .rndscaleSs _ | .rndscaleSd _ => .scalar
  | .scalefSs _ | .scalefSd _ => .scalar
  | .cmpSs _ | .cmpSd _ => .scalar

/-- The operand fields of an instruction (30_encoding.md R73). -/
def Instr.fields : Instr → Fields
  | .addPs f | .addPd f | .addSs f | .addSd f => f
  | .subPs f | .subPd f | .subSs f | .subSd f => f
  | .mulPs f | .mulPd f | .mulSs f | .mulSd f => f
  | .divPs f | .divPd f | .divSs f | .divSd f => f
  | .minPs f | .minPd f | .minSs f | .minSd f => f
  | .maxPs f | .maxPd f | .maxSs f | .maxSd f => f
  | .sqrtPs f | .sqrtPd f | .sqrtSs f | .sqrtSd f => f
  | .fmaddPs f | .fmaddPd f | .fmaddSs f | .fmaddSd f => f
  | .fmsubPs f | .fmsubPd f | .fmsubSs f | .fmsubSd f => f
  | .fnmaddPs f | .fnmaddPd f | .fnmaddSs f | .fnmaddSd f => f
  | .fnmsubPs f | .fnmsubPd f | .fnmsubSs f | .fnmsubSd f => f
  | .fixupimmPs f | .fixupimmPd f | .fixupimmSs f | .fixupimmSd f => f
  | .fpclassPs f | .fpclassPd f | .fpclassSs f | .fpclassSd f => f
  | .getexpPs f | .getexpPd f | .getexpSs f | .getexpSd f => f
  | .getmantPs f | .getmantPd f | .getmantSs f | .getmantSd f => f
  | .rangePs f | .rangePd f | .rangeSs f | .rangeSd f => f
  | .reducePs f | .reducePd f | .reduceSs f | .reduceSd f => f
  | .rndscalePs f | .rndscalePd f | .rndscaleSs f | .rndscaleSd f => f
  | .scalefPs f | .scalefPd f | .scalefSs f | .scalefSd f => f
  | .cmpPs f | .cmpPd f | .cmpSs f | .cmpSd f => f

/-- The instruction `<OP>.PS`, `.PD`, `.SS` or `.SD` with given operand fields (30_encoding.md R73). -/
def Instr.build (f : Fields) : Op → Prec → Form → Instr
  | .add, .single, .packed => .addPs f
  | .add, .double, .packed => .addPd f
  | .add, .single, .scalar => .addSs f
  | .add, .double, .scalar => .addSd f
  | .sub, .single, .packed => .subPs f
  | .sub, .double, .packed => .subPd f
  | .sub, .single, .scalar => .subSs f
  | .sub, .double, .scalar => .subSd f
  | .mul, .single, .packed => .mulPs f
  | .mul, .double, .packed => .mulPd f
  | .mul, .single, .scalar => .mulSs f
  | .mul, .double, .scalar => .mulSd f
  | .div, .single, .packed => .divPs f
  | .div, .double, .packed => .divPd f
  | .div, .single, .scalar => .divSs f
  | .div, .double, .scalar => .divSd f
  | .min, .single, .packed => .minPs f
  | .min, .double, .packed => .minPd f
  | .min, .single, .scalar => .minSs f
  | .min, .double, .scalar => .minSd f
  | .max, .single, .packed => .maxPs f
  | .max, .double, .packed => .maxPd f
  | .max, .single, .scalar => .maxSs f
  | .max, .double, .scalar => .maxSd f
  | .sqrt, .single, .packed => .sqrtPs f
  | .sqrt, .double, .packed => .sqrtPd f
  | .sqrt, .single, .scalar => .sqrtSs f
  | .sqrt, .double, .scalar => .sqrtSd f
  | .fmadd, .single, .packed => .fmaddPs f
  | .fmadd, .double, .packed => .fmaddPd f
  | .fmadd, .single, .scalar => .fmaddSs f
  | .fmadd, .double, .scalar => .fmaddSd f
  | .fmsub, .single, .packed => .fmsubPs f
  | .fmsub, .double, .packed => .fmsubPd f
  | .fmsub, .single, .scalar => .fmsubSs f
  | .fmsub, .double, .scalar => .fmsubSd f
  | .fnmadd, .single, .packed => .fnmaddPs f
  | .fnmadd, .double, .packed => .fnmaddPd f
  | .fnmadd, .single, .scalar => .fnmaddSs f
  | .fnmadd, .double, .scalar => .fnmaddSd f
  | .fnmsub, .single, .packed => .fnmsubPs f
  | .fnmsub, .double, .packed => .fnmsubPd f
  | .fnmsub, .single, .scalar => .fnmsubSs f
  | .fnmsub, .double, .scalar => .fnmsubSd f
  | .fixupimm, .single, .packed => .fixupimmPs f
  | .fixupimm, .double, .packed => .fixupimmPd f
  | .fixupimm, .single, .scalar => .fixupimmSs f
  | .fixupimm, .double, .scalar => .fixupimmSd f
  | .fpclass, .single, .packed => .fpclassPs f
  | .fpclass, .double, .packed => .fpclassPd f
  | .fpclass, .single, .scalar => .fpclassSs f
  | .fpclass, .double, .scalar => .fpclassSd f
  | .getexp, .single, .packed => .getexpPs f
  | .getexp, .double, .packed => .getexpPd f
  | .getexp, .single, .scalar => .getexpSs f
  | .getexp, .double, .scalar => .getexpSd f
  | .getmant, .single, .packed => .getmantPs f
  | .getmant, .double, .packed => .getmantPd f
  | .getmant, .single, .scalar => .getmantSs f
  | .getmant, .double, .scalar => .getmantSd f
  | .range, .single, .packed => .rangePs f
  | .range, .double, .packed => .rangePd f
  | .range, .single, .scalar => .rangeSs f
  | .range, .double, .scalar => .rangeSd f
  | .reduce, .single, .packed => .reducePs f
  | .reduce, .double, .packed => .reducePd f
  | .reduce, .single, .scalar => .reduceSs f
  | .reduce, .double, .scalar => .reduceSd f
  | .rndscale, .single, .packed => .rndscalePs f
  | .rndscale, .double, .packed => .rndscalePd f
  | .rndscale, .single, .scalar => .rndscaleSs f
  | .rndscale, .double, .scalar => .rndscaleSd f
  | .scalef, .single, .packed => .scalefPs f
  | .scalef, .double, .packed => .scalefPd f
  | .scalef, .single, .scalar => .scalefSs f
  | .scalef, .double, .scalar => .scalefSd f
  | .cmp, .single, .packed => .cmpPs f
  | .cmp, .double, .packed => .cmpPd f
  | .cmp, .single, .scalar => .cmpSs f
  | .cmp, .double, .scalar => .cmpSd f

/-- The instruction a command word carries; a reserved word carries none, and the reason is named (30_encoding.md R75). -/
def decode (w : CmdWord) : Except Reserved Instr :=
  let c := Command.ofWord w
  if c.rsvdLow = 0#5 ∧ c.rsvdHigh = 0#8 then
    match Op.ofCode c.op, VecLen.ofCode c.vl with
    | none, _ => .error (.operation c.op)
    | some _, none => .error .vectorLength
    | some op, some vl =>
      .ok (Instr.build { vl := vl, maskEn := decide (c.maskEn = 1#1), zero := decide (c.zero = 1#1), imm8 := c.imm8 }
        op (Prec.ofCode c.prec) (Form.ofCode c.form))
  else .error .reservedBits

/-- The command record of an instruction: its selection fields, its operand fields, and zero in every reserved bit
(30_encoding.md R71, R73). -/
def Instr.command (i : Instr) : Command where
  op := i.op.code
  prec := i.prec.code
  form := i.form.code
  vl := i.fields.vl.code
  maskEn := BitVec.ofBool i.fields.maskEn
  zero := BitVec.ofBool i.fields.zero
  rsvdLow := 0#5
  imm8 := i.fields.imm8
  rsvdHigh := 0#8

/-- The command word of an instruction (30_encoding.md R71). -/
def encode (i : Instr) : CmdWord := i.command.toWord

/-- The instruction the decoder reads from the bits `w` of a row of spec/opcode_table.json, every bit from `nbits` up
being 0: the row's one word, as the command port carries it. -/
def decodeTableWord (nbits w : Nat) : Option Instr :=
  match decode (BitVec.ofNat 32 (w % 2 ^ nbits)) with
  | .ok i => some i
  | .error _ => none

end Sys2Proof
end

