-- ==== Sys2Proof/Machine/State.lean ====
section
/-! DEFINITION. The machine's state: the status context, the control register and every port of 10_state.md R20, as plain
data; why a step can stop; and the state after reset (70_reset_and_hazards.md R340 to R343). FPCORE has no memory, no
program counter and no register file (10_state.md R21, R22, 20_memory.md R50), so State holds none. -/

namespace Sys2Proof.Machine

/-- The four rounding modes (43_status_context.md R173). -/
inductive RoundingMode where
  /-- nearest-even, code 0 -/
  | rn
  /-- toward minus infinity, code 1 -/
  | rd
  /-- toward plus infinity, code 2 -/
  | ru
  /-- toward zero, code 3 -/
  | rz
deriving DecidableEq, Repr

/-- The status context SC, the one register of FPCORE (10_state.md R23). -/
structure StatusContext where
  roundingMode : RoundingMode
  exceptionMasks : Flags
  daz : Bool
  fuz : Bool
  stickyFlags : Flags
  suppressFlags : Flags
deriving DecidableEq, Repr

/-- The state of FPCORE and the values on its ports (10_state.md R20). The input ports hold what the collaborators last
put there (log entry 18); `cmd` holds the command that is issued and not yet answered, `none` while FPCORE waits (log
entry 1). -/
structure State where
  /-- the status context (10_state.md R23); a free value between commands (log entry 7) -/
  sc : StatusContext
  /-- the control register (10_state.md R24) -/
  ctrl : CtrlWord
  /-- the command word (30_encoding.md R71) -/
  cmd : Option CmdWord
  /-- source container A (10_state.md R26) -/
  a : Container
  /-- source container B (10_state.md R26) -/
  b : Container
  /-- source container C (10_state.md R26) -/
  c : Container
  /-- the prior destination DPRIOR (10_state.md R26) -/
  dprior : Container
  /-- the lane mask K (10_state.md R27) -/
  k : MaskWord
  /-- the container result RESULT (10_state.md R30): a value of the answered command's VL bits, held zero-extended; the
  bits above VL are no part of the port (44_lanes_masking.md R202, log entry 8) -/
  result : Container
  /-- the mask result KRESULT (10_state.md R30) -/
  kresult : MaskWord
  /-- the written-back control register CTRL_OUT (10_state.md R25, R30) -/
  ctrlOut : CtrlWord
  /-- FINAL_FLAGS (10_state.md R30) -/
  finalFlags : Flags
  /-- FAULT (10_state.md R30) -/
  fault : Bool
  /-- the model's own counter of free values; no part of FPCORE (log entry 6) -/
  freeCount : Nat
deriving DecidableEq, Repr

/-- Why a run stops with a fault. FPCORE itself never stops with one: an unmasked exception is the FAULT output of a
normal response (60_exceptions.md R308, R311). -/
inductive Fault where
  /-- Raised by the program harness alone (`Harness.step`), when it is asked to go on after a command that answered with
  FAULT = 1: the run is stuck there, fault delivery being outside the spec (93_implementation_defined.md P14). Safe. -/
  | stoppedByFpFault
deriving DecidableEq, Repr

/-- Why a step gives no meaning. -/
inductive Refusal where
  /-- Raised by no arm of `exec`: every instruction has its meaning. Safe. -/
  | notModelled (mnemonic : String)
  /-- Raised by `step` on a reserved command word (30_encoding.md R75, 93_implementation_defined.md P1). Safe. -/
  | reservedCommand (why : Reserved)
  /-- Raised by the program harness alone, on a command whose required operand is not presented
  (93_implementation_defined.md P11). Safe. -/
  | operandNotPresented
deriving DecidableEq, Repr

/-- The status context at reset. The spec calls it unspecified and unobservable (70_reset_and_hazards.md R341). DESIGN
CHOICE (log entry 4), unsafe. -/
def StatusContext.reset : StatusContext where
  roundingMode := .rn
  exceptionMasks := 0#6
  daz := false
  fuz := false
  stickyFlags := 0#6
  suppressFlags := 0#6

/-- The machine after reset: it waits for its first command (70_reset_and_hazards.md R343) with CTRL at CTRL_RESET (R342,
log entry 3). The spec gives the ports no reset value (R341): DESIGN CHOICE zero (log entry 5), unsafe. -/
def State.reset : State where
  sc := StatusContext.reset
  ctrl := Config.ctrlReset
  cmd := none
  a := 0#512
  b := 0#512
  c := 0#512
  dprior := 0#512
  k := 0#32
  result := 0#512
  kresult := 0#32
  ctrlOut := 0#16
  finalFlags := 0#6
  fault := false
  freeCount := 0

end Sys2Proof.Machine
end

