-- ==== Sys2Proof/Machine/Flags.lean ====
section
/-! DEFINITION. Flag sets, the fields of the control register, and the three functions of the status context: building it,
overriding the rounding mode, merging the flags back (10_state.md R23 to R25, R31; 43_status_context.md R171 to R179). -/

namespace Sys2Proof.Machine

/-- Invalid Operation, bit 0 (10_state.md R31). -/
def flagI : Flags := 0x01#6
/-- Denormal-Operand, bit 1 (10_state.md R31). -/
def flagD : Flags := 0x02#6
/-- Divide-by-Zero, bit 2 (10_state.md R31). -/
def flagZ : Flags := 0x04#6
/-- Overflow, bit 3 (10_state.md R31). -/
def flagO : Flags := 0x08#6
/-- Underflow, bit 4 (10_state.md R31). -/
def flagU : Flags := 0x10#6
/-- Inexact, bit 5 (10_state.md R31). -/
def flagP : Flags := 0x20#6

/-- The pre-computational class I, D, Z (00_scope.md R18, 60_exceptions.md R300). -/
def preComputational : Flags := flagI ||| flagD ||| flagZ

/-- The architectural reportable mask: all six flags (43_status_context.md R177). -/
def reportable : Flags := 0x3F#6

/-- A flag set that holds `f` exactly when `raised`. -/
def flagIf (raised : Bool) (f : Flags) : Flags := if raised then f else 0#6

/-- The rounding mode a two-bit code names (43_status_context.md R173). -/
def RoundingMode.ofCode (c : BitVec 2) : RoundingMode :=
  if c = 0#2 then .rn else if c = 1#2 then .rd else if c = 2#2 then .ru else .rz

/-- The two-bit code of a rounding mode (43_status_context.md R173). -/
def RoundingMode.code : RoundingMode → BitVec 2
  | .rn => 0#2
  | .rd => 1#2
  | .ru => 2#2
  | .rz => 3#2

/-- `CTRL.flags`, bits 5:0 (10_state.md R24). -/
def ctrlFlags (w : CtrlWord) : Flags := w.extractLsb' 0 6
/-- `CTRL.DAZ`, bit 6 (10_state.md R24). -/
def ctrlDaz (w : CtrlWord) : Bool := w.getLsbD 6
/-- `CTRL.masks`, bits 12:7 (10_state.md R24). -/
def ctrlMasks (w : CtrlWord) : Flags := w.extractLsb' 7 6
/-- `CTRL.UM`, bit 11 (10_state.md R24). -/
def ctrlUm (w : CtrlWord) : Bool := w.getLsbD 11
/-- `CTRL.RC`, bits 14:13 (10_state.md R24). -/
def ctrlRc (w : CtrlWord) : BitVec 2 := w.extractLsb' 13 2
/-- `CTRL.FZ`, bit 15 (10_state.md R24). -/
def ctrlFz (w : CtrlWord) : Bool := w.getLsbD 15

/-- The mask bit of Overflow in a context (10_state.md R23, R31). -/
def StatusContext.overflowMasked (sc : StatusContext) : Bool := sc.exceptionMasks.getLsbD 3
/-- The mask bit of Underflow in a context (10_state.md R23, R31). -/
def StatusContext.underflowMasked (sc : StatusContext) : Bool := sc.exceptionMasks.getLsbD 4

/-- `from_control_register` (43_status_context.md R171): a fresh context, its flag sets empty. -/
def StatusContext.fromControlRegister (ctrl : CtrlWord) : StatusContext where
  roundingMode := RoundingMode.ofCode (ctrlRc ctrl)
  exceptionMasks := ctrlMasks ctrl
  daz := ctrlDaz ctrl
  fuz := ctrlFz ctrl && ctrlUm ctrl
  stickyFlags := 0#6
  suppressFlags := 0#6

/-- `apply_rounding_override` (43_status_context.md R174): `imm8[2] = 0` takes the mode from `imm8[1:0]`, `imm8[3] = 1`
suppresses Inexact. -/
def StatusContext.applyRoundingOverride (sc : StatusContext) (imm8 : BitVec 8) : StatusContext :=
  { sc with
    roundingMode := if imm8.getLsbD 2 then sc.roundingMode else RoundingMode.ofCode (imm8.extractLsb' 0 2)
    suppressFlags := sc.suppressFlags ||| flagIf (imm8.getLsbD 3) flagP }

/-- The primitive `flag(F)` (10_state.md R23): the only way a lane changes the context. -/
def StatusContext.flag (sc : StatusContext) (f : Flags) : StatusContext :=
  { sc with stickyFlags := sc.stickyFlags ||| f }

/-- The flags `merge_back` starts from: reportable and not suppressed (43_status_context.md R176). -/
def StatusContext.reported (sc : StatusContext) : Flags :=
  sc.stickyFlags &&& reportable &&& ~~~sc.suppressFlags

/-- `final_flags` of `merge_back` (43_status_context.md R176, R178): an unmasked pre-computational flag drops the
post-computational ones. -/
def StatusContext.finalFlags (sc : StatusContext) : Flags :=
  if sc.reported &&& ~~~sc.exceptionMasks &&& preComputational ≠ 0#6 then sc.reported &&& preComputational
  else sc.reported

/-- `should_fault` of `merge_back` (43_status_context.md R176, 60_exceptions.md R310). -/
def StatusContext.shouldFault (sc : StatusContext) : Bool :=
  decide (sc.finalFlags &&& ~~~sc.exceptionMasks ≠ 0#6)

/-- `CTRL_OUT = {CTRL[15:6], CTRL[5:0] | final_flags}` (10_state.md R25, 43_status_context.md R179). -/
def mergedCtrl (ctrl : CtrlWord) (f : Flags) : CtrlWord :=
  ctrl.extractLsb' 6 10 ++ (ctrlFlags ctrl ||| f)

/-- A status context read off 22 bits, its six fields in the order of 10_state.md R23 from the top: how a free value of
Config becomes a context (log entry 7). -/
def StatusContext.ofBits (w : BitVec 22) : StatusContext where
  roundingMode := RoundingMode.ofCode (w.extractLsb' 20 2)
  exceptionMasks := w.extractLsb' 14 6
  daz := w.getLsbD 13
  fuz := w.getLsbD 12
  stickyFlags := w.extractLsb' 6 6
  suppressFlags := w.extractLsb' 0 6

end Sys2Proof.Machine
end

