-- ==== Sys2Proof/Machine/Numerics.lean ====
section
/-! DEFINITION. The formats and the shared numeric primitives (40_numerics.md R100 to R120). A lane function is pure: it
returns a value and the set of flags it raises, which the lane loop ORs into the status context (10_state.md R23,
40_numerics.md R119). Magnitudes are exact (00_scope.md R16). -/

namespace Sys2Proof

/-- Exponent field bits `EB` (40_numerics.md R100). -/
def Prec.eb : Prec → Nat
  | .single => 8
  | .double => 11

/-- Fraction field bits `FB` (40_numerics.md R100). -/
def Prec.fb : Prec → Nat
  | .single => 23
  | .double => 52

/-- The precision `p = FB + 1` (40_numerics.md R100). -/
def Prec.sigBits (p : Prec) : Nat := p.fb + 1

/-- `BIAS` (40_numerics.md R100). -/
def Prec.bias : Prec → Nat
  | .single => 127
  | .double => 1023

/-- `EMIN = 1 - BIAS` (40_numerics.md R100). -/
def Prec.emin (p : Prec) : Int := 1 - p.bias

/-- `EMAX = BIAS` (40_numerics.md R100). -/
def Prec.emax (p : Prec) : Int := p.bias

/-- The all-ones exponent field `EALL` (40_numerics.md R100). -/
def Prec.eall : Prec → Nat
  | .single => 255
  | .double => 2047

/-- The exponent `EMIN - FB` of the smallest denormal, the grid every finite value lies on (40_numerics.md R105). -/
def Prec.unitExp (p : Prec) : Int := p.emin - p.fb

end Sys2Proof

namespace Sys2Proof.Machine

variable {p : Prec}

/-- `sign(v)` (40_numerics.md R101). -/
def sign (v : Lane p) : Bool := v.msb

/-- `expf(v)`, an unsigned integer (40_numerics.md R101). -/
def expf (v : Lane p) : Nat := (v.extractLsb' p.fb p.eb).toNat

/-- `frac(v)`, an unsigned integer (40_numerics.md R101). -/
def frac (v : Lane p) : Nat := (v.extractLsb' 0 p.fb).toNat

/-- `pack(s, e, f) = {s, e, f}` (40_numerics.md R101). -/
def pack (s : Bool) (e f : Nat) : Lane p :=
  BitVec.ofNat p.width (s.toNat * 2 ^ (p.width - 1) + e * 2 ^ p.fb + f)

/-- `with_sign(v, s) = {s, v[W-2:0]}` (40_numerics.md R101). -/
def withSign (v : Lane p) (s : Bool) : Lane p :=
  BitVec.ofNat p.width (s.toNat * 2 ^ (p.width - 1) + v.toNat % 2 ^ (p.width - 1))

/-- `abs(v)` (40_numerics.md R101). -/
def absLane (v : Lane p) : Lane p := withSign v false

/-- `neg(v)` (40_numerics.md R101). -/
def negLane (v : Lane p) : Lane p := withSign v (!sign v)

/-- `isZero(v)` (40_numerics.md R102). -/
def isZero (v : Lane p) : Bool := expf v == 0 && frac v == 0
/-- `isDenorm(v)` (40_numerics.md R102). -/
def isDenorm (v : Lane p) : Bool := expf v == 0 && frac v != 0
/-- `isNormal(v)` (40_numerics.md R102). -/
def isNormal (v : Lane p) : Bool := expf v != 0 && expf v != p.eall
/-- `isInf(v)` (40_numerics.md R102). -/
def isInf (v : Lane p) : Bool := expf v == p.eall && frac v == 0
/-- `isNaN(v)` (40_numerics.md R102). -/
def isNaN (v : Lane p) : Bool := expf v == p.eall && frac v != 0
/-- `isQNaN(v)` (40_numerics.md R102). -/
def isQNaN (v : Lane p) : Bool := isNaN v && v.getLsbD (p.fb - 1)
/-- `isSNaN(v)` (40_numerics.md R102). -/
def isSNaN (v : Lane p) : Bool := isNaN v && !v.getLsbD (p.fb - 1)
/-- `isFinite(v)` (40_numerics.md R102). -/
def isFinite (v : Lane p) : Bool := expf v != p.eall

/-- The infinity of sign `s` (40_numerics.md R101). -/
def infinity (s : Bool) : Lane p := pack s p.eall 0
/-- The zero of sign `s` (40_numerics.md R101). -/
def signedZero (s : Bool) : Lane p := pack s 0 0
/-- The largest finite magnitude with sign `s` (40_numerics.md R116). -/
def maxFinite (s : Bool) : Lane p := pack s (p.eall - 1) (2 ^ p.fb - 1)
/-- One with sign `s` (45_classify_fixup.md R223). -/
def signedOne (s : Bool) : Lane p := pack s p.bias 0

/-- The categories of `classify` (40_numerics.md R103). -/
inductive Category where
  | zero
  | normal
  | denormal
  | signalingNaN
  | quietNaN
  | posInfinity
  | negInfinity
deriving DecidableEq, Repr

/-- A denormal flushed to the zero of its sign when `on` (40_numerics.md R103, R104). -/
def flushDenormal (on : Bool) (v : Lane p) : Lane p := if on && isDenorm v then signedZero (sign v) else v

/-- `daz(v)` under a context (40_numerics.md R104). -/
def daz (sc : StatusContext) (v : Lane p) : Lane p := flushDenormal sc.daz v

/-- `classify(v, daz)` (40_numerics.md R103). -/
def classify (v : Lane p) (on : Bool) : Category :=
  let t := flushDenormal on v
  if isZero t then .zero
  else if isDenorm t then .denormal
  else if isNormal t then .normal
  else if isInf t then (if sign t then .negInfinity else .posInfinity)
  else if isSNaN t then .signalingNaN
  else .quietNaN

/-- `mag(v)` of a finite `v` as a whole number of units `2^(EMIN - FB)` (40_numerics.md R105): `frac(v)` of them for a zero
or denormal, `(2^FB + frac(v)) * 2^(expf(v) - 1)` for a normal, since `BIAS + FB = 1 - (EMIN - FB)`. -/
def magUnits (v : Lane p) : Nat :=
  if expf v = 0 then frac v else (2 ^ p.fb + frac v) * 2 ^ (expf v - 1)

/-- A sign and a magnitude as an integer. -/
def signed (s : Bool) (n : Nat) : Int := if s then -(n : Int) else n

/-- `val(v)` of a finite `v` in units `2^(EMIN - FB)` (40_numerics.md R105). -/
def valUnits (v : Lane p) : Int := signed (sign v) (magUnits v)

/-- What a lane function answers: a value and the flags it raises (40_numerics.md R119). -/
structure LaneOut (p : Prec) where
  val : Lane p
  flags : Flags
deriving DecidableEq, Repr

/-- A value with more flags raised. -/
def LaneOut.raise (r : LaneOut p) (f : Flags) : LaneOut p := { r with flags := r.flags ||| f }

/-- A value that raises nothing. -/
def quietly (v : Lane p) : LaneOut p := { val := v, flags := 0#6 }

/-- `DNAN`, the default NaN (40_numerics.md R106). -/
def dnan : Lane p := pack true p.eall (2 ^ (p.fb - 1))

/-- `quiet(v)`: the top fraction bit set (40_numerics.md R107). -/
def quiet (v : Lane p) : Lane p := v ||| BitVec.twoPow p.width (p.fb - 1)

/-- The result of an invalid operation: `flag(I); return DNAN` (40_numerics.md R106). -/
def invalid : LaneOut p := { val := dnan, flags := flagI }

/-- `prop1(a)` (40_numerics.md R108). -/
def prop1 (a : Lane p) : LaneOut p := { val := quiet a, flags := flagIf (isSNaN a) flagI }

/-- `prop2(a, b)`: the first NaN wins (40_numerics.md R109). -/
def prop2 (a b : Lane p) : LaneOut p where
  val := if isNaN a then quiet a else quiet b
  flags := flagIf (isSNaN a || isSNaN b) flagI

/-- `prop3(a, b, c)`: multiplicand, multiplier, addend (40_numerics.md R110). -/
def prop3 (a b c : Lane p) : LaneOut p where
  val := if isNaN a then quiet a else if isNaN b then quiet b else quiet c
  flags := flagIf (isSNaN a || isSNaN b || isSNaN c) flagI

/-- An exact non-negative real, as the lane rules form it (00_scope.md R16): `n / d * 2^z`, or the square root of
`n * 2^z` (41_arith.md R147). -/
inductive Exact where
  | quot (n d : Nat) (z : Int)
  | root (n : Nat) (z : Int)
deriving DecidableEq, Repr

/-- `floor(n / d * 2^z)`. -/
def floorScaled (n d : Nat) (z : Int) : Nat :=
  if 0 ≤ z then n * 2 ^ z.toNat / d else n / (d * 2 ^ (-z).toNat)

/-- The order of `n / d * 2^z` and `k`, for a positive `d`. -/
def compareScaled (n d : Nat) (z : Int) (k : Nat) : Ordering :=
  if 0 ≤ z then compare (n * 2 ^ z.toNat) (k * d) else compare n (k * (d * 2 ^ (-z).toNat))

/-- The integer square root by its bits from the top: `bits` more of them, above the root `r` found so far. -/
def sqrtBits (n : Nat) : Nat → Nat → Nat
  | 0, r => r
  | bits + 1, r => sqrtBits n bits (if (r + 2 ^ bits) * (r + 2 ^ bits) ≤ n then r + 2 ^ bits else r)

/-- `floor(sqrt(n))`. -/
def isqrt (n : Nat) : Nat := sqrtBits n (n.log2 / 2 + 1) 0

/-- `floor(m / 2^z)` of an exact real (40_numerics.md R111). -/
def Exact.floorDiv : Exact → Int → Nat
  | .quot n d e, z => floorScaled n d (e - z)
  | .root n e, z => isqrt (floorScaled n 1 (e - 2 * z))

/-- The order of an exact real `m` and `k * 2^z`. -/
def Exact.compareAt : Exact → Nat → Int → Ordering
  | .quot n d e, k, z => compareScaled n d (e - z) k
  | .root n e, k, z => compareScaled n 1 (e - 2 * z) (k * k)

/-- `floor(log2(m))` of a positive exact real (40_numerics.md R112). -/
def Exact.floorLog2 : Exact → Int
  | .quot n d e =>
    let g : Int := (n.log2 : Int) - d.log2
    e + (if compareScaled n d (-g) 1 = .lt then g - 1 else g)
  | .root n e => (n.log2 + e) / 2

/-- `rnd(rm, s, m, 2^z)`, as the multiple `k` of `2^z` it rounds to (40_numerics.md R111). -/
def rnd (rm : RoundingMode) (s : Bool) (m : Exact) (z : Int) : Nat :=
  let lo := m.floorDiv z
  if m.compareAt lo z = .eq then lo
  else match rm with
    | .rn =>
      match m.compareAt (2 * lo + 1) (z - 1) with
      | .lt => lo
      | .gt => lo + 1
      | .eq => if lo % 2 = 0 then lo else lo + 1
    | .rz => lo
    | .ru => if s then lo else lo + 1
    | .rd => if s then lo + 1 else lo

/-- `k * 2^z` as a natural number, for the `k` and `z` a rule knows to give one. -/
def shiftBy (k : Nat) (z : Int) : Nat := if 0 ≤ z then k * 2 ^ z.toNat else k / 2 ^ (-z).toNat

/-- `floor(log2(k * 2^z))` for a positive `k`. -/
def log2At (k : Nat) (z : Int) : Int := k.log2 + z

/-- `pack_exact(s, m)` for a representable magnitude `m = k * 2^z > 0` (40_numerics.md R113). -/
def packExact (s : Bool) (k : Nat) (z : Int) : Lane p :=
  let e := log2At k z
  if e < p.emin then pack s 0 (shiftBy k (z - p.unitExp))
  else pack s (e + p.bias).toNat (shiftBy k (z - (e - p.fb)) - 2 ^ p.fb)

/-- Whether an overflowing result becomes an infinity (40_numerics.md R116). -/
def overflowsToInfinity (rm : RoundingMode) (s : Bool) : Bool :=
  match rm with
  | .rn => true
  | .ru => !s
  | .rd => s
  | .rz => false

/-- `overflow(s, x1)` (40_numerics.md R116). -/
def overflow (sc : StatusContext) (s inexact : Bool) : LaneOut p where
  val := if overflowsToInfinity sc.roundingMode s then infinity s else maxFinite s
  flags := flagO ||| flagIf (sc.overflowMasked || inexact) flagP

/-- `underflow(s, m, x1)`: the result is tiny (40_numerics.md R117). -/
def underflow (sc : StatusContext) (s : Bool) (m : Exact) (inexact : Bool) : LaneOut p :=
  if sc.fuz then { val := signedZero s, flags := flagU ||| flagP }
  else
    let r2 := rnd sc.roundingMode s m p.unitExp
    let x2 := m.compareAt r2 p.unitExp != .eq
    { val := if r2 = 0 then signedZero s else packExact s r2 p.unitExp
      flags := if sc.underflowMasked then flagIf x2 (flagU ||| flagP) else flagU ||| flagIf inexact flagP }

/-- `round_pack(s, m)` for an exact `m > 0` (40_numerics.md R112): overflow and tininess are judged on the value rounded
to `p` bits. -/
def roundPack (sc : StatusContext) (s : Bool) (m : Exact) : LaneOut p :=
  let z := m.floorLog2 - p.sigBits + 1
  let r1 := rnd sc.roundingMode s m z
  let x1 := m.compareAt r1 z != .eq
  if p.emax + 1 ≤ log2At r1 z then overflow sc s x1
  else if p.emin ≤ log2At r1 z then { val := packExact s r1 z, flags := flagIf x1 flagP }
  else underflow sc s m x1

/-- `order(a, b)` for two values that are not NaN (40_numerics.md R115): minus infinity, the finite values, plus
infinity. -/
def order (a b : Lane p) : Ordering :=
  let rank (v : Lane p) : Int := if isInf v then (if sign v then -1 else 1) else 0
  (compare (rank a) (rank b)).then (if isInf a || isInf b then .eq else compare (valUnits a) (valUnits b))

/-- The sign of an exact zero sum of two terms with signs `sx`, `sy` (40_numerics.md R118, `zero_sum_sign` of
41_arith.md R141). -/
def zeroSumSign (sc : StatusContext) (sx sy : Bool) : Bool :=
  if sx = sy then sx else sc.roundingMode = .rd

/-- Rounds the exact sum `x * 2^z` of two terms of signs `sx`, `sy` (41_arith.md R141, 42_fma.md R160). -/
def roundSum (sc : StatusContext) (x : Int) (z : Int) (sx sy : Bool) : LaneOut p :=
  if x = 0 then quietly (signedZero (zeroSumSign sc sx sy))
  else roundPack sc (x < 0) (.quot x.natAbs 1 z)

end Sys2Proof.Machine
end

