-- ==== Sys2Proof/Machine/Operands.lean ====
section
/-! DEFINITION. How a command's operands are found: lanes of a container, the mask bit, the sub-fields of the immediate
byte, and which port an operation reads (00_scope.md R13; 10_state.md R26, R27; 30_encoding.md R76 to R84;
44_lanes_masking.md R192, R193). -/

namespace Sys2Proof

/-- `VL` in bits (30_encoding.md R71, 44_lanes_masking.md R192). -/
def VecLen.bits : VecLen → Nat
  | .v128 => 128
  | .v256 => 256
  | .v512 => 512

/-- The element count `N = VL / W` (44_lanes_masking.md R192). -/
def VecLen.lanes (vl : VecLen) (p : Prec) : Nat := vl.bits / p.width

/-- The lanes the loop visits: all `N` of a packed command, lane 0 of a scalar one (44_lanes_masking.md R192, R201). -/
def Form.loopLanes (form : Form) (vl : VecLen) (p : Prec) : Nat :=
  match form with
  | .packed => vl.lanes p
  | .scalar => 1

/-- An input port an operation may read (10_state.md R26, R27). -/
inductive Port where
  | a
  | b
  | c
  | dprior
  | k
deriving DecidableEq, Repr

/-- Whether the lane function of an operation reads source B (10_state.md R26). -/
def Op.readsB : Op → Bool
  | .add | .sub | .mul | .div | .min | .max | .fmadd | .fmsub | .fnmadd | .fnmsub | .fixupimm | .range | .scalef | .cmp =>
    true
  | .sqrt | .fpclass | .getexp | .getmant | .reduce | .rndscale => false

/-- Whether the lane function of an operation reads source C (10_state.md R26). -/
def Op.readsC : Op → Bool
  | .fmadd | .fmsub | .fnmadd | .fnmsub => true
  | .add | .sub | .mul | .div | .min | .max | .sqrt | .fixupimm | .fpclass | .getexp | .getmant | .range | .reduce
  | .rndscale | .scalef | .cmp => false

/-- Whether an operation answers on KRESULT (44_lanes_masking.md R199). -/
def Op.isMask : Op → Bool
  | .fpclass | .cmp => true
  | .add | .sub | .mul | .div | .min | .max | .sqrt | .fmadd | .fmsub | .fnmadd | .fnmsub | .fixupimm | .getexp
  | .getmant | .range | .reduce | .rndscale | .scalef => false

/-- Whether a command reads a port (10_state.md R26, R27; 30_encoding.md R74; 44_lanes_masking.md R195, R199;
70_reset_and_hazards.md R344 items 3 and 4). -/
def Instr.reads (i : Instr) : Port → Bool
  | .a => true
  | .b => i.op.readsB
  | .c => i.op.readsC
  | .dprior => i.op = .fixupimm || (!i.op.isMask && i.fields.maskEn && !i.fields.zero)
  | .k => i.fields.maskEn

end Sys2Proof

namespace Sys2Proof.Machine

/-- `X.lane(i)` (00_scope.md R13, 30_encoding.md R84). -/
def laneOf (p : Prec) (x : Container) (i : Nat) : Lane p := x.extractLsb' (p.width * i) p.width

/-- What a lane function may read of lane `i` of the ports (44_lanes_masking.md R191, R201). -/
structure LaneArgs (p : Prec) where
  a : Lane p
  b : Lane p
  c : Lane p
  dst : Lane p
deriving DecidableEq, Repr

/-- Lane `i` of every operand container (44_lanes_masking.md R201). -/
def State.laneArgs (s : State) (p : Prec) (i : Nat) : LaneArgs p where
  a := laneOf p s.a i
  b := laneOf p s.b i
  c := laneOf p s.c i
  dst := laneOf p s.dprior i

/-- Whether lane `i` is active: no mask operand, or its mask bit is 1 (10_state.md R27, 44_lanes_masking.md R195). -/
def laneActive (f : Fields) (k : MaskWord) (i : Nat) : Bool := !f.maskEn || k.getLsbD i

/-- The mask policy in force: Zero when there is no mask operand (30_encoding.md R74, 44_lanes_masking.md R195). -/
def zeroPolicy (f : Fields) : Bool := !f.maskEn || f.zero

/-- CMP: the predicate index `imm8[4:0]` (30_encoding.md R77). -/
def immPredicate (imm8 : BitVec 8) : BitVec 5 := imm8.extractLsb' 0 5

/-- GETMANT: `interval_ctrl = imm8[1:0]` (30_encoding.md R79). -/
def immInterval (imm8 : BitVec 8) : BitVec 2 := imm8.extractLsb' 0 2

/-- GETMANT and RANGE: `sign_ctrl = imm8[3:2]` (30_encoding.md R79, R80). -/
def immSignCtrl (imm8 : BitVec 8) : BitVec 2 := imm8.extractLsb' 2 2

/-- RANGE: `opselect` bit 0, 1 for max (30_encoding.md R80). -/
def immSelectMax (imm8 : BitVec 8) : Bool := imm8.getLsbD 0

/-- RANGE: `opselect` bit 1, 1 to compare absolute values (30_encoding.md R80). -/
def immSelectAbs (imm8 : BitVec 8) : Bool := imm8.getLsbD 1

/-- RNDSCALE and REDUCE: the scale `M = imm8[7:4]`, 0 to 15 (30_encoding.md R81). -/
def immScale (imm8 : BitVec 8) : Nat := (imm8.extractLsb' 4 4).toNat

/-- FIXUPIMM: the response operand of a lane, its low 32 bits (10_state.md R29, 30_encoding.md R84). -/
def responseOperand {p : Prec} (b : Lane p) : BitVec 32 := b.extractLsb' 0 32

/-- FIXUPIMM: the response code at the nibble of token number `j` (30_encoding.md R84). -/
def responseCode (resp : BitVec 32) (j : Nat) : BitVec 4 := resp.extractLsb' (4 * j) 4

end Sys2Proof.Machine
end

