-- ==== Sys2Proof/Machine/Ops.lean ====
section
/-! DEFINITION. The command sequence every instruction shares (44_lanes_masking.md R190 to R201): building the status
context, the lane loop with the masked-lane multiplexer, the merge-back, the fault, the response. FPCORE has no memory,
so no operation here reads or writes one (20_memory.md R50). -/

namespace Sys2Proof.Machine

variable {p : Prec}

/-- A lane function with a value result: context, immediate byte, operand lanes (40_numerics.md R119). -/
abbrev LaneFn (p : Prec) := StatusContext → BitVec 8 → LaneArgs p → LaneOut p

/-- What a lane function with a mask result answers: one bit and the flags it raises (44_lanes_masking.md R199). -/
structure BitOut where
  bit : Bool
  flags : Flags
deriving DecidableEq, Repr

/-- A lane function with a mask result (44_lanes_masking.md R199). -/
abbrev BitFn (p : Prec) := StatusContext → BitVec 8 → LaneArgs p → BitOut

/-- The command on the port, where one is issued (10_state.md R20, 70_reset_and_hazards.md R343). -/
def State.fetch (s : State) : Option CmdWord := s.cmd

/-- Step 2 of a command: a fresh status context from the control register, with the rounding override of the immediate
for an operation that defines one (44_lanes_masking.md R200, 43_status_context.md R171, R174, R175). -/
def State.buildContext (s : State) (override : Option (BitVec 8)) : State :=
  { s with
    sc := match override with
      | none => StatusContext.fromControlRegister s.ctrl
      | some imm8 => (StatusContext.fromControlRegister s.ctrl).applyRoundingOverride imm8 }

/-- The exception-flag accumulator over the first `n` lanes: each lane's flags ORed into the context
(10_state.md R23, 44_lanes_masking.md R191). -/
def StatusContext.accumulate (sc : StatusContext) (raised : Nat → Flags) : Nat → StatusContext
  | 0 => sc
  | n + 1 => (sc.accumulate raised n).flag (raised n)

/-- Step 3's effect on the context (44_lanes_masking.md R201). -/
def State.accumulateFlags (s : State) (raised : Nat → Flags) (n : Nat) : State :=
  { s with sc := s.sc.accumulate raised n }

/-- The masked-lane multiplexer (44_lanes_masking.md R194). -/
def blend (dst computed : Lane p) (bit zero : Bool) : Lane p :=
  if bit then computed else if zero then 0#p.width else dst

/-- A container whose first `n` lanes are `v 0` to `v (n - 1)` and whose other bits are 0 (44_lanes_masking.md R201). -/
def packLanes (v : Nat → Lane p) : Nat → Container
  | 0 => 0#512
  | n + 1 => packLanes v n ||| ((v n).setWidth 512 <<< (p.width * n))

/-- A mask whose first `n` bits are `b 0` to `b (n - 1)` and whose other bits are 0 (44_lanes_masking.md R199). -/
def packBits (b : Nat → Bool) : Nat → MaskWord
  | 0 => 0#32
  | n + 1 => packBits b n ||| ((BitVec.ofBool (b n)).setWidth 32 <<< n)

/-- Step 4, the merge: FINAL_FLAGS, CTRL_OUT and the control register it is written back to
(43_status_context.md R176, R179; 10_state.md R25; log entry 10). -/
def State.mergeBack (s : State) : State :=
  { s with
    finalFlags := s.sc.finalFlags
    ctrlOut := mergedCtrl s.ctrl s.sc.finalFlags
    ctrl := mergedCtrl s.ctrl s.sc.finalFlags }

/-- `raise FpFault`: the fault is signalled and the result is withheld (60_exceptions.md R311, R312). The result ports then
hold any value (93_implementation_defined.md P5, log entry 6). FPCORE saves nothing, masks nothing and transfers control
nowhere, and it has no return from a fault (60_exceptions.md R317, R318). -/
def State.raiseFpFault (s : State) : State :=
  { s with fault := true, result := Config.freeResult s.freeCount, kresult := Config.freeKresult s.freeCount }

/-- Step 5 with a container result of VL bits (44_lanes_masking.md R201, R202; log entry 8); KRESULT is the port this
operation does not drive (93_implementation_defined.md P7). -/
def State.writeResult (s : State) (r : Container) : State :=
  { s with fault := false, result := r, kresult := Config.freeKresult s.freeCount }

/-- Step 5 with a mask result (44_lanes_masking.md R199, R201); RESULT is the port this operation does not drive
(93_implementation_defined.md P7). -/
def State.writeKresult (s : State) (kr : MaskWord) : State :=
  { s with fault := false, result := Config.freeResult s.freeCount, kresult := kr }

/-- The end of the command: its word is answered and gone (10_state.md R20, one command's lifetime; log entry 1), the
status context is discarded (10_state.md R23; log entry 7), and the next free values are fresh ones. -/
def State.finish (s : State) : State :=
  { s with
    cmd := none
    sc := StatusContext.ofBits (Config.freeContext s.freeCount)
    freeCount := s.freeCount + 1 }

/-- Steps 4 and 5 (44_lanes_masking.md R200): merge, then fault or write. -/
def State.respond (s : State) (write : State → State) : State :=
  (if s.sc.shouldFault then s.mergeBack.raiseFpFault else write s.mergeBack).finish

/-- Lane `i`'s flags: those its lane function raises when the lane is active, none otherwise
(44_lanes_masking.md R196). -/
def activeFlags (f : Fields) (k : MaskWord) (i : Nat) (raised : Flags) : Flags :=
  if laneActive f k i then raised else 0#6

/-- A command with a container result (44_lanes_masking.md R201), over its precision, form, rounding override and lane
function. -/
def runContainer (p : Prec) (form : Form) (override : Option (BitVec 8)) (op : LaneFn p) (f : Fields) (s : State) :
    Host.Outcome State Fault Refusal :=
  let s := s.buildContext override
  let out := fun i => op s.sc f.imm8 (s.laneArgs p i)
  let n := form.loopLanes f.vl p
  let r := packLanes (fun i => blend (laneOf p s.dprior i) (out i).val (laneActive f s.k i) (zeroPolicy f)) n
  .next ((s.accumulateFlags (fun i => activeFlags f s.k i (out i).flags) n).respond (·.writeResult r))

/-- A command with a mask result (44_lanes_masking.md R199, R201): a bit outside the mask is 0 whatever `zero` says. -/
def runMask (p : Prec) (form : Form) (op : BitFn p) (f : Fields) (s : State) : Host.Outcome State Fault Refusal :=
  let s := s.buildContext none
  let out := fun i => op s.sc f.imm8 (s.laneArgs p i)
  let n := form.loopLanes f.vl p
  let kr := packBits (fun i => laneActive f s.k i && (out i).bit) n
  .next ((s.accumulateFlags (fun i => activeFlags f s.k i (out i).flags) n).respond (·.writeKresult kr))

end Sys2Proof.Machine
end

