-- ==== Sys2Proof/Machine/Classify.lean ====
section
/-! DEFINITION. The classifier and the fixup-by-token-table unit: FIXUPIMM, FPCLASS (45_classify_fixup.md R220 to R225). -/

namespace Sys2Proof.Machine

variable {p : Prec}

/-- `fpclass(v, selector, daz)` (45_classify_fixup.md R221, 30_encoding.md R78). R221 contradicts itself for a positive denormal
with `daz` off: its pseudocode lets selector bit 5 match a denormal of either sign, and its corner cases give 0 under selector
0xFF. DESIGN CHOICE (log entry 22), unsafe: the pseudocode is followed, so bit 5 matches it. -/
def fpclass (v : Lane p) (selector : BitVec 8) (on : Bool) : Bool :=
  let s := sign (flushDenormal on v)
  let cat := classify v on
  (selector.getLsbD 0 && cat == .quietNaN)
    || (selector.getLsbD 1 && (cat == .zero && !s))
    || (selector.getLsbD 2 && (cat == .zero && s))
    || (selector.getLsbD 3 && cat == .posInfinity)
    || (selector.getLsbD 4 && cat == .negInfinity)
    || (selector.getLsbD 5 && cat == .denormal)
    || (selector.getLsbD 6 && ((cat == .normal || cat == .denormal) && s))
    || (selector.getLsbD 7 && cat == .signalingNaN)

/-- The eight fixup tokens, in the order of their numbers (45_classify_fixup.md R222). -/
inductive Token where
  | qnan
  | snan
  | zero
  | one
  | negInf
  | posInf
  | negValue
  | posValue
deriving DecidableEq, Repr

/-- The number of a token, which fixes its nibble (45_classify_fixup.md R222). -/
def Token.number : Token → Nat
  | .qnan => 0
  | .snan => 1
  | .zero => 2
  | .one => 3
  | .negInf => 4
  | .posInf => 5
  | .negValue => 6
  | .posValue => 7

/-- The bit of `imm8` that raises `I` for a token (30_encoding.md R82, 45_classify_fixup.md R222). -/
def Token.invalidBit : Token → Option Nat
  | .qnan => none
  | .snan => some 4
  | .zero => some 1
  | .one => some 3
  | .negInf => some 5
  | .posInf => some 7
  | .negValue => some 6
  | .posValue => none

/-- The bit of `imm8` that raises `Z` for a token (30_encoding.md R82, 45_classify_fixup.md R222). -/
def Token.divzBit : Token → Option Nat
  | .zero => some 0
  | .one => some 2
  | .qnan | .snan | .negInf | .posInf | .negValue | .posValue => none

/-- The token of a source value after `daz` (45_classify_fixup.md R222). -/
def token (t : Lane p) : Token :=
  if isQNaN t then .qnan
  else if isSNaN t then .snan
  else if isZero t then .zero
  else if t = signedOne false then .one
  else if isInf t then (if sign t then .negInf else .posInf)
  else if sign t then .negValue
  else .posValue

/-- The sixteen substitution actions, in the order of their codes (45_classify_fixup.md R223). -/
inductive Response where
  | preserveDst
  | passSrc
  | quietSrc
  | defaultNaN
  | negInfinity
  | posInfinity
  | signedInfinity
  | negZero
  | posZero
  | negOne
  | posOne
  | half
  | ninety
  | halfPi
  | maxFinite
  | minFinite
deriving DecidableEq, Repr

/-- The response table: action number `code`, one for each of the sixteen codes (45_classify_fixup.md R223). -/
def responseTable : Vector Response 16 :=
  #v[.preserveDst, .passSrc, .quietSrc, .defaultNaN, .negInfinity, .posInfinity, .signedInfinity, .negZero,
     .posZero, .negOne, .posOne, .half, .ninety, .halfPi, .maxFinite, .minFinite]

/-- The action of a response code (45_classify_fixup.md R223). -/
def responseOf (code : BitVec 4) : Response := responseTable.get code.toFin

/-- The format's value of 90 (45_classify_fixup.md R223). -/
def ninetyValue : (p : Prec) → Lane p
  | .single => 0x42B40000#32
  | .double => 0x4056800000000000#64

/-- The format's value nearest to half of pi (45_classify_fixup.md R223). -/
def halfPiValue : (p : Prec) → Lane p
  | .single => 0x3FC90FDB#32
  | .double => 0x3FF921FB54442D18#64

/-- `response(code, dst, t)` (45_classify_fixup.md R223). -/
def respond (r : Response) (dst t : Lane p) : Lane p :=
  match r with
  | .preserveDst => dst
  | .passSrc => t
  | .quietSrc => quiet t
  | .defaultNaN => dnan
  | .negInfinity => infinity true
  | .posInfinity => infinity false
  | .signedInfinity => infinity (sign t)
  | .negZero => signedZero true
  | .posZero => signedZero false
  | .negOne => signedOne true
  | .posOne => signedOne false
  | .half => pack false (p.bias - 1) 0
  | .ninety => ninetyValue p
  | .halfPi => halfPiValue p
  | .maxFinite => maxFinite false
  | .minFinite => maxFinite true

/-- Whether `imm8` has the named fault-mask bit set, where the token has one (30_encoding.md R82). -/
def faultBitSet (imm8 : BitVec 8) : Option Nat → Bool
  | none => false
  | some i => imm8.getLsbD i

/-- `fixupimm(dst, src, resp, imm8)` (45_classify_fixup.md R224). -/
def fixupimm (sc : StatusContext) (imm8 : BitVec 8) (dst src : Lane p) (resp : BitVec 32) : LaneOut p :=
  let t := daz sc src
  let j := token t
  { val := respond (responseOf (responseCode resp j.number)) dst t
    flags := flagIf (faultBitSet imm8 j.invalidBit) flagI ||| flagIf (faultBitSet imm8 j.divzBit) flagZ }

/-- The lane function of FIXUPIMM (45_classify_fixup.md R224, R225). -/
def fixupimmLane : LaneFn p := fun sc imm8 x => fixupimm sc imm8 x.dst x.a (responseOperand x.b)

/-- The lane function of FPCLASS: it raises nothing (45_classify_fixup.md R221). -/
def fpclassLane : BitFn p := fun sc imm8 x => { bit := fpclass x.a imm8 sc.daz, flags := 0#6 }

/-- FIXUPIMM.PS (45_classify_fixup.md R224). -/
def execFixupimmPs (f : Fields) (s : State) : Host.Outcome State Fault Refusal :=
  runContainer .single .packed none fixupimmLane f s

/-- FIXUPIMM.PD (45_classify_fixup.md R224). -/
def execFixupimmPd (f : Fields) (s : State) : Host.Outcome State Fault Refusal :=
  runContainer .double .packed none fixupimmLane f s

/-- FIXUPIMM.SS (45_classify_fixup.md R224). -/
def execFixupimmSs (f : Fields) (s : State) : Host.Outcome State Fault Refusal :=
  runContainer .single .scalar none fixupimmLane f s

/-- FIXUPIMM.SD (45_classify_fixup.md R224). -/
def execFixupimmSd (f : Fields) (s : State) : Host.Outcome State Fault Refusal :=
  runContainer .double .scalar none fixupimmLane f s

/-- FPCLASS.PS (45_classify_fixup.md R221). -/
def execFpclassPs (f : Fields) (s : State) : Host.Outcome State Fault Refusal :=
  runMask .single .packed fpclassLane f s

/-- FPCLASS.PD (45_classify_fixup.md R221). -/
def execFpclassPd (f : Fields) (s : State) : Host.Outcome State Fault Refusal :=
  runMask .double .packed fpclassLane f s

/-- FPCLASS.SS (45_classify_fixup.md R221). -/
def execFpclassSs (f : Fields) (s : State) : Host.Outcome State Fault Refusal :=
  runMask .single .scalar fpclassLane f s

/-- FPCLASS.SD (45_classify_fixup.md R221). -/
def execFpclassSd (f : Fields) (s : State) : Host.Outcome State Fault Refusal :=
  runMask .double .scalar fpclassLane f s

end Sys2Proof.Machine
end

