-- ==== Sys2Proof/Machine/Compare.lean ====
section
/-! DEFINITION. The comparison predicate table and CMP (49_compare.md R280 to R284). -/

namespace Sys2Proof.Machine

variable {p : Prec}

/-- A predicate: its value for each of the four relations, and whether it is signaling (49_compare.md R282). -/
structure Predicate where
  lt : Bool
  eq : Bool
  gt : Bool
  un : Bool
  signaling : Bool
deriving DecidableEq, Repr

/-- The predicate table `PRED`, columns `lt eq gt un sig` (49_compare.md R281, R282). -/
def predicateTable : Vector Predicate 32 :=
  #v[⟨false, true, false, false, false⟩,  -- 0 EQ_OQ
     ⟨true, false, false, false, true⟩,  -- 1 LT_OS
     ⟨true, true, false, false, true⟩,  -- 2 LE_OS
     ⟨false, false, false, true, false⟩,  -- 3 UNORD_Q
     ⟨true, false, true, true, false⟩,  -- 4 NEQ_UQ
     ⟨false, true, true, true, true⟩,  -- 5 NLT_US
     ⟨false, false, true, true, true⟩,  -- 6 NLE_US
     ⟨true, true, true, false, false⟩,  -- 7 ORD_Q
     ⟨false, true, false, true, false⟩,  -- 8 EQ_UQ
     ⟨true, false, false, true, true⟩,  -- 9 NGE_US
     ⟨true, true, false, true, true⟩,  -- 10 NGT_US
     ⟨false, false, false, false, false⟩,  -- 11 FALSE_OQ
     ⟨true, false, true, false, false⟩,  -- 12 NEQ_OQ
     ⟨false, true, true, false, true⟩,  -- 13 GE_OS
     ⟨false, false, true, false, true⟩,  -- 14 GT_OS
     ⟨true, true, true, true, false⟩,  -- 15 TRUE_UQ
     ⟨false, true, false, false, true⟩,  -- 16 EQ_OS
     ⟨true, false, false, false, false⟩,  -- 17 LT_OQ
     ⟨true, true, false, false, false⟩,  -- 18 LE_OQ
     ⟨false, false, false, true, true⟩,  -- 19 UNORD_S
     ⟨true, false, true, true, true⟩,  -- 20 NEQ_US
     ⟨false, true, true, true, false⟩,  -- 21 NLT_UQ
     ⟨false, false, true, true, false⟩,  -- 22 NLE_UQ
     ⟨true, true, true, false, true⟩,  -- 23 ORD_S
     ⟨false, true, false, true, true⟩,  -- 24 EQ_US
     ⟨true, false, false, true, false⟩,  -- 25 NGE_UQ
     ⟨true, true, false, true, false⟩,  -- 26 NGT_UQ
     ⟨false, false, false, false, true⟩,  -- 27 FALSE_OS
     ⟨true, false, true, false, true⟩,  -- 28 NEQ_OS
     ⟨false, true, true, false, false⟩,  -- 29 GE_OQ
     ⟨false, false, true, false, false⟩,  -- 30 GT_OQ
     ⟨true, true, true, true, true⟩]  -- 31 TRUE_US

/-- The predicate of an index: every one of the 32 has its row (49_compare.md R281). -/
def predicateOf (index : BitVec 5) : Predicate := predicateTable.get index.toFin

/-- The value of a predicate for an ordered relation (49_compare.md R280). -/
def Predicate.onOrder (q : Predicate) : Ordering → Bool
  | .lt => q.lt
  | .eq => q.eq
  | .gt => q.gt

/-- `cmp(a, b, imm8)` (49_compare.md R280). -/
def cmp (sc : StatusContext) (a b : Lane p) (q : Predicate) : BitOut :=
  let a := daz sc a
  let b := daz sc b
  if isNaN a || isNaN b then { bit := q.un, flags := flagIf (q.signaling || isSNaN a || isSNaN b) flagI }
  else { bit := q.onOrder (order a b), flags := flagIf (isDenorm a || isDenorm b) flagD }

/-- The lane function of CMP (49_compare.md R280). -/
def cmpLane : BitFn p := fun sc imm8 x => cmp sc x.a x.b (predicateOf (immPredicate imm8))

/-- CMP.PS (49_compare.md R280). -/
def execCmpPs (f : Fields) (s : State) : Host.Outcome State Fault Refusal :=
  runMask .single .packed cmpLane f s

/-- CMP.PD (49_compare.md R280). -/
def execCmpPd (f : Fields) (s : State) : Host.Outcome State Fault Refusal :=
  runMask .double .packed cmpLane f s

/-- CMP.SS (49_compare.md R280). -/
def execCmpSs (f : Fields) (s : State) : Host.Outcome State Fault Refusal :=
  runMask .single .scalar cmpLane f s

/-- CMP.SD (49_compare.md R280). -/
def execCmpSd (f : Fields) (s : State) : Host.Outcome State Fault Refusal :=
  runMask .double .scalar cmpLane f s

end Sys2Proof.Machine
end

