-- ==== Sys2Proof/Machine/Extract.lean ====
section
/-! DEFINITION. The exponent and mantissa extractor: GETEXP, GETMANT (46_getexp_getmant.md R240 to R245). -/

namespace Sys2Proof.Machine

variable {p : Prec}

/-- `floor(log2(mag(v)))` of a finite non-zero value (46_getexp_getmant.md R240). -/
def exponentOf (v : Lane p) : Int := log2At (magUnits v) p.unitExp

/-- `getexp(v)` (46_getexp_getmant.md R240). -/
def getexp (sc : StatusContext) (v : Lane p) : LaneOut p :=
  let v := daz sc v
  let n := exponentOf v
  if isNaN v then prop1 v
  else if isInf v then quietly (infinity false)
  else if isZero v then quietly (infinity true)
  else
    { val := if n = 0 then signedZero false else packExact (n < 0) n.natAbs 0
      flags := flagIf (isDenorm v) flagD }

/-- The sign policies of GETMANT (46_getexp_getmant.md R244); policy 2 is the OPEN parameter (log entry 9). -/
def signPolicy (ctrl : BitVec 2) (s : Bool) : Bool :=
  if ctrl = 0#2 then s
  else if ctrl = 1#2 then false
  else if ctrl = 2#2 then Config.getmantSignComputed s
  else !s

/-- Whether `interval_ctrl` takes half of a significand `sig = units / 2^(log2 units)` of exponent `n`
(46_getexp_getmant.md R243). -/
def halvesSignificand (ctrl : BitVec 2) (units : Nat) (n : Int) : Bool :=
  if ctrl = 0#2 then false
  else if ctrl = 1#2 then n % 2 = 1
  else if ctrl = 2#2 then true
  else decide (3 * 2 ^ units.log2 ≤ 2 * units)

/-- `getmant(v, sign_ctrl, interval_ctrl)` (46_getexp_getmant.md R242). -/
def getmant (sc : StatusContext) (v : Lane p) (signCtrl intervalCtrl : BitVec 2) : LaneOut p :=
  let v := daz sc v
  let so := signPolicy signCtrl (sign v)
  let n := exponentOf v
  let halved : Int := if halvesSignificand intervalCtrl (magUnits v) n then 1 else 0
  if isNaN v then prop1 v
  else if isInf v || isZero v then quietly (signedOne so)
  else { val := packExact so (magUnits v) (p.unitExp - n - halved), flags := flagIf (isDenorm v) flagD }

/-- The lane function of GETEXP (46_getexp_getmant.md R240). -/
def getexpLane : LaneFn p := fun sc _ x => getexp sc x.a
/-- The lane function of GETMANT (46_getexp_getmant.md R242). -/
def getmantLane : LaneFn p := fun sc imm8 x => getmant sc x.a (immSignCtrl imm8) (immInterval imm8)

/-- GETEXP.PS (46_getexp_getmant.md R240). -/
def execGetexpPs (f : Fields) (s : State) : Host.Outcome State Fault Refusal :=
  runContainer .single .packed none getexpLane f s

/-- GETEXP.PD (46_getexp_getmant.md R240). -/
def execGetexpPd (f : Fields) (s : State) : Host.Outcome State Fault Refusal :=
  runContainer .double .packed none getexpLane f s

/-- GETEXP.SS (46_getexp_getmant.md R240). -/
def execGetexpSs (f : Fields) (s : State) : Host.Outcome State Fault Refusal :=
  runContainer .single .scalar none getexpLane f s

/-- GETEXP.SD (46_getexp_getmant.md R240). -/
def execGetexpSd (f : Fields) (s : State) : Host.Outcome State Fault Refusal :=
  runContainer .double .scalar none getexpLane f s

/-- GETMANT.PS (46_getexp_getmant.md R242). -/
def execGetmantPs (f : Fields) (s : State) : Host.Outcome State Fault Refusal :=
  runContainer .single .packed none getmantLane f s

/-- GETMANT.PD (46_getexp_getmant.md R242). -/
def execGetmantPd (f : Fields) (s : State) : Host.Outcome State Fault Refusal :=
  runContainer .double .packed none getmantLane f s

/-- GETMANT.SS (46_getexp_getmant.md R242). -/
def execGetmantSs (f : Fields) (s : State) : Host.Outcome State Fault Refusal :=
  runContainer .single .scalar none getmantLane f s

/-- GETMANT.SD (46_getexp_getmant.md R242). -/
def execGetmantSd (f : Fields) (s : State) : Host.Outcome State Fault Refusal :=
  runContainer .double .scalar none getmantLane f s

end Sys2Proof.Machine
end

