-- ==== Sys2Proof/Machine/Arith.lean ====
section
/-! DEFINITION. Adder, multiplier, divider, min/max and square root: ADD, SUB, MUL, DIV, MIN, MAX, SQRT
(41_arith.md R140 to R148). -/

namespace Sys2Proof.Machine

variable {p : Prec}

/-- `add_core(a, b)`: operands not NaN and already flushed (41_arith.md R141). -/
def addCore (sc : StatusContext) (a b : Lane p) : LaneOut p :=
  if isInf a && isInf b && sign a != sign b then invalid
  else
    (if isInf a then quietly a
     else if isInf b then quietly b
     else roundSum sc (valUnits a + valUnits b) p.unitExp (sign a) (sign b)).raise
      (flagIf (isDenorm a || isDenorm b) flagD)

/-- `add(a, b)` (41_arith.md R141). -/
def add (sc : StatusContext) (a b : Lane p) : LaneOut p :=
  let a := daz sc a
  let b := daz sc b
  if isNaN a || isNaN b then prop2 a b else addCore sc a b

/-- `sub(a, b)`: the sign of `b` is flipped only after the NaN test (41_arith.md R142). -/
def sub (sc : StatusContext) (a b : Lane p) : LaneOut p :=
  let a := daz sc a
  let b := daz sc b
  if isNaN a || isNaN b then prop2 a b else addCore sc a (negLane b)

/-- `mul(a, b)` (41_arith.md R143). -/
def mul (sc : StatusContext) (a b : Lane p) : LaneOut p :=
  let a := daz sc a
  let b := daz sc b
  let s := sign a ^^ sign b
  if isNaN a || isNaN b then prop2 a b
  else if (isInf a && isZero b) || (isZero a && isInf b) then invalid
  else
    (if isInf a || isInf b then quietly (infinity s)
     else if isZero a || isZero b then quietly (signedZero s)
     else roundPack sc s (.quot (magUnits a * magUnits b) 1 (2 * p.unitExp))).raise
      (flagIf (isDenorm a || isDenorm b) flagD)

/-- `div(a, b)`: invalid and divide-by-zero are detected before rounding (41_arith.md R144). -/
def div (sc : StatusContext) (a b : Lane p) : LaneOut p :=
  let a := daz sc a
  let b := daz sc b
  let s := sign a ^^ sign b
  if isNaN a || isNaN b then prop2 a b
  else if (isInf a && isInf b) || (isZero a && isZero b) then invalid
  else
    (if isInf a then quietly (infinity s)
     else if isInf b then quietly (signedZero s)
     else if isZero b then { val := infinity s, flags := flagZ }
     else if isZero a then quietly (signedZero s)
     else roundPack sc s (.quot (magUnits a) (magUnits b) 0)).raise
      (flagIf (isDenorm a || isDenorm b) flagD)

/-- `min(a, b)`: equal operands and NaNs give the second operand, bit for bit (41_arith.md R145). -/
def min (sc : StatusContext) (a b : Lane p) : LaneOut p :=
  let a := daz sc a
  let b := daz sc b
  if isNaN a || isNaN b then { val := b, flags := flagI }
  else { val := if order a b = .lt then a else b, flags := flagIf (isDenorm a || isDenorm b) flagD }

/-- `max(a, b)` (41_arith.md R146). -/
def max (sc : StatusContext) (a b : Lane p) : LaneOut p :=
  let a := daz sc a
  let b := daz sc b
  if isNaN a || isNaN b then { val := b, flags := flagI }
  else { val := if order a b = .gt then a else b, flags := flagIf (isDenorm a || isDenorm b) flagD }

/-- `sqrt(a)`, rounded from the exact root (41_arith.md R147, log entry 13). -/
def sqrt (sc : StatusContext) (a : Lane p) : LaneOut p :=
  let a := daz sc a
  if isNaN a then prop1 a
  else if isZero a then quietly a
  else if sign a then invalid
  else
    (if isInf a then quietly a else roundPack sc false (.root (magUnits a) p.unitExp)).raise (flagIf (isDenorm a) flagD)

/-- The lane function of ADD (41_arith.md R141). -/
def addLane : LaneFn p := fun sc _ x => add sc x.a x.b
/-- The lane function of SUB (41_arith.md R142). -/
def subLane : LaneFn p := fun sc _ x => sub sc x.a x.b
/-- The lane function of MUL (41_arith.md R143). -/
def mulLane : LaneFn p := fun sc _ x => mul sc x.a x.b
/-- The lane function of DIV (41_arith.md R144). -/
def divLane : LaneFn p := fun sc _ x => div sc x.a x.b
/-- The lane function of MIN (41_arith.md R145). -/
def minLane : LaneFn p := fun sc _ x => min sc x.a x.b
/-- The lane function of MAX (41_arith.md R146). -/
def maxLane : LaneFn p := fun sc _ x => max sc x.a x.b
/-- The lane function of SQRT (41_arith.md R147). -/
def sqrtLane : LaneFn p := fun sc _ x => sqrt sc x.a

/-- ADD.PS (41_arith.md R141). -/
def execAddPs (f : Fields) (s : State) : Host.Outcome State Fault Refusal :=
  runContainer .single .packed none addLane f s

/-- ADD.PD (41_arith.md R141). -/
def execAddPd (f : Fields) (s : State) : Host.Outcome State Fault Refusal :=
  runContainer .double .packed none addLane f s

/-- ADD.SS (41_arith.md R141). -/
def execAddSs (f : Fields) (s : State) : Host.Outcome State Fault Refusal :=
  runContainer .single .scalar none addLane f s

/-- ADD.SD (41_arith.md R141). -/
def execAddSd (f : Fields) (s : State) : Host.Outcome State Fault Refusal :=
  runContainer .double .scalar none addLane f s

/-- SUB.PS (41_arith.md R142). -/
def execSubPs (f : Fields) (s : State) : Host.Outcome State Fault Refusal :=
  runContainer .single .packed none subLane f s

/-- SUB.PD (41_arith.md R142). -/
def execSubPd (f : Fields) (s : State) : Host.Outcome State Fault Refusal :=
  runContainer .double .packed none subLane f s

/-- SUB.SS (41_arith.md R142). -/
def execSubSs (f : Fields) (s : State) : Host.Outcome State Fault Refusal :=
  runContainer .single .scalar none subLane f s

/-- SUB.SD (41_arith.md R142). -/
def execSubSd (f : Fields) (s : State) : Host.Outcome State Fault Refusal :=
  runContainer .double .scalar none subLane f s

/-- MUL.PS (41_arith.md R143). -/
def execMulPs (f : Fields) (s : State) : Host.Outcome State Fault Refusal :=
  runContainer .single .packed none mulLane f s

/-- MUL.PD (41_arith.md R143). -/
def execMulPd (f : Fields) (s : State) : Host.Outcome State Fault Refusal :=
  runContainer .double .packed none mulLane f s

/-- MUL.SS (41_arith.md R143). -/
def execMulSs (f : Fields) (s : State) : Host.Outcome State Fault Refusal :=
  runContainer .single .scalar none mulLane f s

/-- MUL.SD (41_arith.md R143). -/
def execMulSd (f : Fields) (s : State) : Host.Outcome State Fault Refusal :=
  runContainer .double .scalar none mulLane f s

/-- DIV.PS (41_arith.md R144). -/
def execDivPs (f : Fields) (s : State) : Host.Outcome State Fault Refusal :=
  runContainer .single .packed none divLane f s

/-- DIV.PD (41_arith.md R144). -/
def execDivPd (f : Fields) (s : State) : Host.Outcome State Fault Refusal :=
  runContainer .double .packed none divLane f s

/-- DIV.SS (41_arith.md R144). -/
def execDivSs (f : Fields) (s : State) : Host.Outcome State Fault Refusal :=
  runContainer .single .scalar none divLane f s

/-- DIV.SD (41_arith.md R144). -/
def execDivSd (f : Fields) (s : State) : Host.Outcome State Fault Refusal :=
  runContainer .double .scalar none divLane f s

/-- MIN.PS (41_arith.md R145). -/
def execMinPs (f : Fields) (s : State) : Host.Outcome State Fault Refusal :=
  runContainer .single .packed none minLane f s

/-- MIN.PD (41_arith.md R145). -/
def execMinPd (f : Fields) (s : State) : Host.Outcome State Fault Refusal :=
  runContainer .double .packed none minLane f s

/-- MIN.SS (41_arith.md R145). -/
def execMinSs (f : Fields) (s : State) : Host.Outcome State Fault Refusal :=
  runContainer .single .scalar none minLane f s

/-- MIN.SD (41_arith.md R145). -/
def execMinSd (f : Fields) (s : State) : Host.Outcome State Fault Refusal :=
  runContainer .double .scalar none minLane f s

/-- MAX.PS (41_arith.md R146). -/
def execMaxPs (f : Fields) (s : State) : Host.Outcome State Fault Refusal :=
  runContainer .single .packed none maxLane f s

/-- MAX.PD (41_arith.md R146). -/
def execMaxPd (f : Fields) (s : State) : Host.Outcome State Fault Refusal :=
  runContainer .double .packed none maxLane f s

/-- MAX.SS (41_arith.md R146). -/
def execMaxSs (f : Fields) (s : State) : Host.Outcome State Fault Refusal :=
  runContainer .single .scalar none maxLane f s

/-- MAX.SD (41_arith.md R146). -/
def execMaxSd (f : Fields) (s : State) : Host.Outcome State Fault Refusal :=
  runContainer .double .scalar none maxLane f s

/-- SQRT.PS (41_arith.md R147). -/
def execSqrtPs (f : Fields) (s : State) : Host.Outcome State Fault Refusal :=
  runContainer .single .packed none sqrtLane f s

/-- SQRT.PD (41_arith.md R147). -/
def execSqrtPd (f : Fields) (s : State) : Host.Outcome State Fault Refusal :=
  runContainer .double .packed none sqrtLane f s

/-- SQRT.SS (41_arith.md R147). -/
def execSqrtSs (f : Fields) (s : State) : Host.Outcome State Fault Refusal :=
  runContainer .single .scalar none sqrtLane f s

/-- SQRT.SD (41_arith.md R147). -/
def execSqrtSd (f : Fields) (s : State) : Host.Outcome State Fault Refusal :=
  runContainer .double .scalar none sqrtLane f s

end Sys2Proof.Machine
end

