-- ==== Sys2Proof/Machine/Fma.lean ====
section
/-! DEFINITION. The fused multiply-add unit: FMADD, FMSUB, FNMADD, FNMSUB (42_fma.md R160 to R165). -/

namespace Sys2Proof.Machine

variable {p : Prec}

/-- `fma_core(a, b, c, np, nc)`: the exact product plus the exact addend, rounded once (42_fma.md R160). -/
def fmaCore (sc : StatusContext) (a b c : Lane p) (np nc : Bool) : LaneOut p :=
  let a := daz sc a
  let b := daz sc b
  let c := daz sc c
  let sp := sign a ^^ sign b ^^ np
  let sq := sign c ^^ nc
  let pinf := isInf a || isInf b
  if isNaN a || isNaN b || isNaN c then prop3 a b c
  else if (isInf a && isZero b) || (isZero a && isInf b) then invalid
  else if pinf && isInf c && sp != sq then invalid
  else
    (if pinf then quietly (infinity sp)
     else if isInf c then quietly (infinity sq)
     else roundSum sc
      (signed sp (magUnits a * magUnits b) + signed sq (magUnits c * 2 ^ (-p.unitExp).toNat)) (2 * p.unitExp) sp sq).raise
      (flagIf (isDenorm a || isDenorm b || isDenorm c) flagD)

/-- The lane function of FMADD (42_fma.md R161). -/
def fmaddLane : LaneFn p := fun sc _ x => fmaCore sc x.a x.b x.c false false
/-- The lane function of FMSUB (42_fma.md R162). -/
def fmsubLane : LaneFn p := fun sc _ x => fmaCore sc x.a x.b x.c false true
/-- The lane function of FNMADD (42_fma.md R163). -/
def fnmaddLane : LaneFn p := fun sc _ x => fmaCore sc x.a x.b x.c true false
/-- The lane function of FNMSUB (42_fma.md R164). -/
def fnmsubLane : LaneFn p := fun sc _ x => fmaCore sc x.a x.b x.c true true

/-- FMADD.PS (42_fma.md R161). -/
def execFmaddPs (f : Fields) (s : State) : Host.Outcome State Fault Refusal :=
  runContainer .single .packed none fmaddLane f s

/-- FMADD.PD (42_fma.md R161). -/
def execFmaddPd (f : Fields) (s : State) : Host.Outcome State Fault Refusal :=
  runContainer .double .packed none fmaddLane f s

/-- FMADD.SS (42_fma.md R161). -/
def execFmaddSs (f : Fields) (s : State) : Host.Outcome State Fault Refusal :=
  runContainer .single .scalar none fmaddLane f s

/-- FMADD.SD (42_fma.md R161). -/
def execFmaddSd (f : Fields) (s : State) : Host.Outcome State Fault Refusal :=
  runContainer .double .scalar none fmaddLane f s

/-- FMSUB.PS (42_fma.md R162). -/
def execFmsubPs (f : Fields) (s : State) : Host.Outcome State Fault Refusal :=
  runContainer .single .packed none fmsubLane f s

/-- FMSUB.PD (42_fma.md R162). -/
def execFmsubPd (f : Fields) (s : State) : Host.Outcome State Fault Refusal :=
  runContainer .double .packed none fmsubLane f s

/-- FMSUB.SS (42_fma.md R162). -/
def execFmsubSs (f : Fields) (s : State) : Host.Outcome State Fault Refusal :=
  runContainer .single .scalar none fmsubLane f s

/-- FMSUB.SD (42_fma.md R162). -/
def execFmsubSd (f : Fields) (s : State) : Host.Outcome State Fault Refusal :=
  runContainer .double .scalar none fmsubLane f s

/-- FNMADD.PS (42_fma.md R163). -/
def execFnmaddPs (f : Fields) (s : State) : Host.Outcome State Fault Refusal :=
  runContainer .single .packed none fnmaddLane f s

/-- FNMADD.PD (42_fma.md R163). -/
def execFnmaddPd (f : Fields) (s : State) : Host.Outcome State Fault Refusal :=
  runContainer .double .packed none fnmaddLane f s

/-- FNMADD.SS (42_fma.md R163). -/
def execFnmaddSs (f : Fields) (s : State) : Host.Outcome State Fault Refusal :=
  runContainer .single .scalar none fnmaddLane f s

/-- FNMADD.SD (42_fma.md R163). -/
def execFnmaddSd (f : Fields) (s : State) : Host.Outcome State Fault Refusal :=
  runContainer .double .scalar none fnmaddLane f s

/-- FNMSUB.PS (42_fma.md R164). -/
def execFnmsubPs (f : Fields) (s : State) : Host.Outcome State Fault Refusal :=
  runContainer .single .packed none fnmsubLane f s

/-- FNMSUB.PD (42_fma.md R164). -/
def execFnmsubPd (f : Fields) (s : State) : Host.Outcome State Fault Refusal :=
  runContainer .double .packed none fnmsubLane f s

/-- FNMSUB.SS (42_fma.md R164). -/
def execFnmsubSs (f : Fields) (s : State) : Host.Outcome State Fault Refusal :=
  runContainer .single .scalar none fnmsubLane f s

/-- FNMSUB.SD (42_fma.md R164). -/
def execFnmsubSd (f : Fields) (s : State) : Host.Outcome State Fault Refusal :=
  runContainer .double .scalar none fnmsubLane f s

end Sys2Proof.Machine
end

