-- ==== Sys2Proof/Machine/Range.lean ====
section
/-! DEFINITION. Min/max with absolute-value select and sign control: RANGE (47_range.md R250 to R254). -/

namespace Sys2Proof.Machine

variable {p : Prec}

/-- The operand RANGE selects from two that are not NaN (47_range.md R250). -/
def rangeSelect (a b : Lane p) (selectMax selectAbs : Bool) : Lane p :=
  let o := if selectAbs then order (absLane a) (absLane b) else order a b
  if o = (if selectMax then .gt else .lt) then a else b

/-- The sign control of RANGE (47_range.md R250). -/
def rangeSign (ctrl : BitVec 2) (a r : Lane p) : Lane p :=
  if ctrl = 0#2 then withSign r (sign a)
  else if ctrl = 1#2 then r
  else if ctrl = 2#2 then withSign r false
  else withSign r true

/-- `range(a, b, opselect, sign_ctrl)`: the sign is overridden only when neither input is a signaling NaN
(47_range.md R250). -/
def range (sc : StatusContext) (a b : Lane p) (selectMax selectAbs : Bool) (signCtrl : BitVec 2) : LaneOut p :=
  let a := daz sc a
  let b := daz sc b
  if isSNaN a || isSNaN b then { val := b, flags := flagI }
  else if isNaN a || isNaN b then quietly (rangeSign signCtrl a b)
  else
    { val := rangeSign signCtrl a (rangeSelect a b selectMax selectAbs)
      flags := flagIf (isDenorm a || isDenorm b) flagD }

/-- The lane function of RANGE (47_range.md R250). -/
def rangeLane : LaneFn p := fun sc imm8 x =>
  range sc x.a x.b (immSelectMax imm8) (immSelectAbs imm8) (immSignCtrl imm8)

/-- RANGE.PS (47_range.md R250). -/
def execRangePs (f : Fields) (s : State) : Host.Outcome State Fault Refusal :=
  runContainer .single .packed none rangeLane f s

/-- RANGE.PD (47_range.md R250). -/
def execRangePd (f : Fields) (s : State) : Host.Outcome State Fault Refusal :=
  runContainer .double .packed none rangeLane f s

/-- RANGE.SS (47_range.md R250). -/
def execRangeSs (f : Fields) (s : State) : Host.Outcome State Fault Refusal :=
  runContainer .single .scalar none rangeLane f s

/-- RANGE.SD (47_range.md R250). -/
def execRangeSd (f : Fields) (s : State) : Host.Outcome State Fault Refusal :=
  runContainer .double .scalar none rangeLane f s

end Sys2Proof.Machine
end

