-- ==== Sys2Proof/Machine/RoundScale.lean ====
section
/-! DEFINITION. Round to scale, reduce and scale by a power of two: REDUCE, RNDSCALE, SCALEF
(48_round_reduce_scalef.md R260 to R268). -/

namespace Sys2Proof.Machine

variable {p : Prec}

/-- `round_to_int(a, M)`: to a multiple of `2^-M` under the context's mode (48_round_reduce_scalef.md R261). -/
def roundToInt (sc : StatusContext) (a : Lane p) (m : Nat) : LaneOut p :=
  let t := daz sc a
  let mag := Exact.quot (magUnits t) 1 p.unitExp
  let y := rnd sc.roundingMode (sign t) mag (-m)
  if isNaN a then prop1 a
  else if isInf t || isZero t then quietly t
  else
    { val := if y = 0 then signedZero (sign t) else packExact (sign t) y (-m)
      flags := flagIf (mag.compareAt y (-m) != .eq) flagP }

/-- `rndscale(a, imm8)` (48_round_reduce_scalef.md R262). -/
def rndscale (sc : StatusContext) (a : Lane p) (imm8 : BitVec 8) : LaneOut p := roundToInt sc a (immScale imm8)

/-- `reduce(a, imm8)`: `a - round_to_int(a)` by the SUB lane function, `+0` for an infinity
(48_round_reduce_scalef.md R264). -/
def reduce (sc : StatusContext) (a : Lane p) (imm8 : BitVec 8) : LaneOut p :=
  let t := roundToInt sc a (immScale imm8)
  if isInf a then quietly (signedZero false) else (sub sc a t.val).raise t.flags

/-- The exponent `n` of SCALEF, clamped as the spec allows (48_round_reduce_scalef.md R267, log entry 14). -/
def clampExponent (n : Int) : Int := if n < -5000 then -5000 else if 5000 < n then 5000 else n

/-- `floor(val(b))` of a finite `b` (48_round_reduce_scalef.md R266, R267). -/
def floorVal (b : Lane p) : Int := valUnits b / 2 ^ (-p.unitExp).toNat

/-- `scalef(a, b)` (48_round_reduce_scalef.md R266). -/
def scalef (sc : StatusContext) (a b : Lane p) : LaneOut p :=
  let a := daz sc a
  let b := daz sc b
  let sa := sign a
  if isNaN a || isNaN b then prop2 a b
  else if isInf b && !sign b then
    if isZero a then invalid else { val := infinity sa, flags := flagIf (isDenorm a) flagD }
  else if isInf b && sign b then
    if isInf a then invalid else { val := signedZero sa, flags := flagIf (isDenorm a) flagD }
  else
    (if isInf a || isZero a then quietly a
     else roundPack sc sa (.quot (magUnits a) 1 (p.unitExp + clampExponent (floorVal b)))).raise
      (flagIf (isDenorm a || isDenorm b) flagD)

/-- The lane function of REDUCE (48_round_reduce_scalef.md R264). -/
def reduceLane : LaneFn p := fun sc imm8 x => reduce sc x.a imm8
/-- The lane function of RNDSCALE (48_round_reduce_scalef.md R262). -/
def rndscaleLane : LaneFn p := fun sc imm8 x => rndscale sc x.a imm8
/-- The lane function of SCALEF (48_round_reduce_scalef.md R266). -/
def scalefLane : LaneFn p := fun sc _ x => scalef sc x.a x.b

/-- REDUCE.PS (48_round_reduce_scalef.md R264). -/
def execReducePs (f : Fields) (s : State) : Host.Outcome State Fault Refusal :=
  runContainer .single .packed (some f.imm8) reduceLane f s

/-- REDUCE.PD (48_round_reduce_scalef.md R264). -/
def execReducePd (f : Fields) (s : State) : Host.Outcome State Fault Refusal :=
  runContainer .double .packed (some f.imm8) reduceLane f s

/-- REDUCE.SS (48_round_reduce_scalef.md R264). -/
def execReduceSs (f : Fields) (s : State) : Host.Outcome State Fault Refusal :=
  runContainer .single .scalar (some f.imm8) reduceLane f s

/-- REDUCE.SD (48_round_reduce_scalef.md R264). -/
def execReduceSd (f : Fields) (s : State) : Host.Outcome State Fault Refusal :=
  runContainer .double .scalar (some f.imm8) reduceLane f s

/-- RNDSCALE.PS (48_round_reduce_scalef.md R262). -/
def execRndscalePs (f : Fields) (s : State) : Host.Outcome State Fault Refusal :=
  runContainer .single .packed (some f.imm8) rndscaleLane f s

/-- RNDSCALE.PD (48_round_reduce_scalef.md R262). -/
def execRndscalePd (f : Fields) (s : State) : Host.Outcome State Fault Refusal :=
  runContainer .double .packed (some f.imm8) rndscaleLane f s

/-- RNDSCALE.SS (48_round_reduce_scalef.md R262). -/
def execRndscaleSs (f : Fields) (s : State) : Host.Outcome State Fault Refusal :=
  runContainer .single .scalar (some f.imm8) rndscaleLane f s

/-- RNDSCALE.SD (48_round_reduce_scalef.md R262). -/
def execRndscaleSd (f : Fields) (s : State) : Host.Outcome State Fault Refusal :=
  runContainer .double .scalar (some f.imm8) rndscaleLane f s

/-- SCALEF.PS (48_round_reduce_scalef.md R266). -/
def execScalefPs (f : Fields) (s : State) : Host.Outcome State Fault Refusal :=
  runContainer .single .packed none scalefLane f s

/-- SCALEF.PD (48_round_reduce_scalef.md R266). -/
def execScalefPd (f : Fields) (s : State) : Host.Outcome State Fault Refusal :=
  runContainer .double .packed none scalefLane f s

/-- SCALEF.SS (48_round_reduce_scalef.md R266). -/
def execScalefSs (f : Fields) (s : State) : Host.Outcome State Fault Refusal :=
  runContainer .single .scalar none scalefLane f s

/-- SCALEF.SD (48_round_reduce_scalef.md R266). -/
def execScalefSd (f : Fields) (s : State) : Host.Outcome State Fault Refusal :=
  runContainer .double .scalar none scalefLane f s

end Sys2Proof.Machine
end

