-- ==== Sys2Proof/Machine/Dispatch.lean ====
section
/-! DEFINITION. The meaning of every instruction, one arm per constructor (30_encoding.md R72, R73). -/

namespace Sys2Proof.Machine

def exec (i : Instr) (s : State) : Host.Outcome State Fault Refusal :=
  match i with
  | .addPs f => Sys2Proof.Machine.execAddPs f s
  | .addPd f => Sys2Proof.Machine.execAddPd f s
  | .addSs f => Sys2Proof.Machine.execAddSs f s
  | .addSd f => Sys2Proof.Machine.execAddSd f s
  | .subPs f => Sys2Proof.Machine.execSubPs f s
  | .subPd f => Sys2Proof.Machine.execSubPd f s
  | .subSs f => Sys2Proof.Machine.execSubSs f s
  | .subSd f => Sys2Proof.Machine.execSubSd f s
  | .mulPs f => Sys2Proof.Machine.execMulPs f s
  | .mulPd f => Sys2Proof.Machine.execMulPd f s
  | .mulSs f => Sys2Proof.Machine.execMulSs f s
  | .mulSd f => Sys2Proof.Machine.execMulSd f s
  | .divPs f => Sys2Proof.Machine.execDivPs f s
  | .divPd f => Sys2Proof.Machine.execDivPd f s
  | .divSs f => Sys2Proof.Machine.execDivSs f s
  | .divSd f => Sys2Proof.Machine.execDivSd f s
  | .minPs f => Sys2Proof.Machine.execMinPs f s
  | .minPd f => Sys2Proof.Machine.execMinPd f s
  | .minSs f => Sys2Proof.Machine.execMinSs f s
  | .minSd f => Sys2Proof.Machine.execMinSd f s
  | .maxPs f => Sys2Proof.Machine.execMaxPs f s
  | .maxPd f => Sys2Proof.Machine.execMaxPd f s
  | .maxSs f => Sys2Proof.Machine.execMaxSs f s
  | .maxSd f => Sys2Proof.Machine.execMaxSd f s
  | .sqrtPs f => Sys2Proof.Machine.execSqrtPs f s
  | .sqrtPd f => Sys2Proof.Machine.execSqrtPd f s
  | .sqrtSs f => Sys2Proof.Machine.execSqrtSs f s
  | .sqrtSd f => Sys2Proof.Machine.execSqrtSd f s
  | .fmaddPs f => Sys2Proof.Machine.execFmaddPs f s
  | .fmaddPd f => Sys2Proof.Machine.execFmaddPd f s
  | .fmaddSs f => Sys2Proof.Machine.execFmaddSs f s
  | .fmaddSd f => Sys2Proof.Machine.execFmaddSd f s
  | .fmsubPs f => Sys2Proof.Machine.execFmsubPs f s
  | .fmsubPd f => Sys2Proof.Machine.execFmsubPd f s
  | .fmsubSs f => Sys2Proof.Machine.execFmsubSs f s
  | .fmsubSd f => Sys2Proof.Machine.execFmsubSd f s
  | .fnmaddPs f => Sys2Proof.Machine.execFnmaddPs f s
  | .fnmaddPd f => Sys2Proof.Machine.execFnmaddPd f s
  | .fnmaddSs f => Sys2Proof.Machine.execFnmaddSs f s
  | .fnmaddSd f => Sys2Proof.Machine.execFnmaddSd f s
  | .fnmsubPs f => Sys2Proof.Machine.execFnmsubPs f s
  | .fnmsubPd f => Sys2Proof.Machine.execFnmsubPd f s
  | .fnmsubSs f => Sys2Proof.Machine.execFnmsubSs f s
  | .fnmsubSd f => Sys2Proof.Machine.execFnmsubSd f s
  | .fixupimmPs f => Sys2Proof.Machine.execFixupimmPs f s
  | .fixupimmPd f => Sys2Proof.Machine.execFixupimmPd f s
  | .fixupimmSs f => Sys2Proof.Machine.execFixupimmSs f s
  | .fixupimmSd f => Sys2Proof.Machine.execFixupimmSd f s
  | .fpclassPs f => Sys2Proof.Machine.execFpclassPs f s
  | .fpclassPd f => Sys2Proof.Machine.execFpclassPd f s
  | .fpclassSs f => Sys2Proof.Machine.execFpclassSs f s
  | .fpclassSd f => Sys2Proof.Machine.execFpclassSd f s
  | .getexpPs f => Sys2Proof.Machine.execGetexpPs f s
  | .getexpPd f => Sys2Proof.Machine.execGetexpPd f s
  | .getexpSs f => Sys2Proof.Machine.execGetexpSs f s
  | .getexpSd f => Sys2Proof.Machine.execGetexpSd f s
  | .getmantPs f => Sys2Proof.Machine.execGetmantPs f s
  | .getmantPd f => Sys2Proof.Machine.execGetmantPd f s
  | .getmantSs f => Sys2Proof.Machine.execGetmantSs f s
  | .getmantSd f => Sys2Proof.Machine.execGetmantSd f s
  | .rangePs f => Sys2Proof.Machine.execRangePs f s
  | .rangePd f => Sys2Proof.Machine.execRangePd f s
  | .rangeSs f => Sys2Proof.Machine.execRangeSs f s
  | .rangeSd f => Sys2Proof.Machine.execRangeSd f s
  | .reducePs f => Sys2Proof.Machine.execReducePs f s
  | .reducePd f => Sys2Proof.Machine.execReducePd f s
  | .reduceSs f => Sys2Proof.Machine.execReduceSs f s
  | .reduceSd f => Sys2Proof.Machine.execReduceSd f s
  | .rndscalePs f => Sys2Proof.Machine.execRndscalePs f s
  | .rndscalePd f => Sys2Proof.Machine.execRndscalePd f s
  | .rndscaleSs f => Sys2Proof.Machine.execRndscaleSs f s
  | .rndscaleSd f => Sys2Proof.Machine.execRndscaleSd f s
  | .scalefPs f => Sys2Proof.Machine.execScalefPs f s
  | .scalefPd f => Sys2Proof.Machine.execScalefPd f s
  | .scalefSs f => Sys2Proof.Machine.execScalefSs f s
  | .scalefSd f => Sys2Proof.Machine.execScalefSd f s
  | .cmpPs f => Sys2Proof.Machine.execCmpPs f s
  | .cmpPd f => Sys2Proof.Machine.execCmpPd f s
  | .cmpSs f => Sys2Proof.Machine.execCmpSs f s
  | .cmpSd f => Sys2Proof.Machine.execCmpSd f s

end Sys2Proof.Machine
end

