-- ==== Sys2Proof/Machine/Step.lean ====
section
/-! DEFINITION. One step: the command on the port, decoded and executed as one atomic step (44_lanes_masking.md R201,
70_reset_and_hazards.md R354). -/

namespace Sys2Proof.Machine

/-- One step. With no command issued FPCORE waits (70_reset_and_hazards.md R343); a reserved command is refused by name
(30_encoding.md R75); any other is executed. -/
def step (s : State) : Host.Outcome State Fault Refusal :=
  match s.fetch with
  | none => .next s
  | some w =>
    match decode w with
    | .ok i => exec i s
    | .error why => .refused (.reservedCommand why)

/-- The state with the command word of the given bits issued on the port, so that the next step runs it. -/
def State.withFetchWord (s : State) (nbits w : Nat) : State :=
  { s with cmd := some (BitVec.ofNat 32 (w % 2 ^ nbits)) }

end Sys2Proof.Machine
end

