-- ==== Sys2Proof/Machine/Harness.lean ====
section
/-! DEFINITION. The program harness of 92_eei_decisions.md D41: the least a register-file and control-register collaborator
must do around FPCORE (70_reset_and_hazards.md R344). It is no part of FPCORE: `step` never reads it (log entry 19). -/

namespace Sys2Proof.Machine

/-- What the collaborators do next, in issue order (20_memory.md R56, 70_reset_and_hazards.md R352): issue a command with
the names of its destination, its three sources and its mask, or write the control register between two commands. -/
inductive Action where
  | command (w : CmdWord) (dst a b c k : Nat)
  | writeCtrl (v : CtrlWord)
deriving DecidableEq, Repr

/-- A container the harness holds, as wide as the commands that use it (00_scope.md R13; 95_test_vectors.md section 3). -/
structure SizedContainer where
  vl : VecLen
  bits : Container
deriving DecidableEq, Repr

/-- The harness: FPCORE, named containers, named masks, the actions still to come, and whether a fault has stopped the
run (92_eei_decisions.md D41). -/
structure Harness where
  core : State
  containers : List (Nat × SizedContainer)
  masks : List (Nat × MaskWord)
  program : List Action
  stopped : Bool
deriving DecidableEq, Repr

/-- A named value, the newest entry of that name. -/
def lookupName {α : Type} (name : Nat) : List (Nat × α) → Option α
  | [] => none
  | (n, v) :: rest => if n = name then some v else lookupName name rest

/-- A value stored under a name: in its place where the name exists, else as a new entry at the end. -/
def storeName {α : Type} (name : Nat) (v : α) : List (Nat × α) → List (Nat × α)
  | [] => [(name, v)]
  | (n, u) :: rest => if n = name then (n, v) :: rest else (n, u) :: storeName name v rest

/-- The value for a port: a port the command reads must be presented, another keeps what it holds
(70_reset_and_hazards.md R344 items 3 and 4, 93_implementation_defined.md P8, P11). -/
def portValue {α : Type} (reads : Bool) (named : Option α) (held : α) : Option α :=
  if reads then named else some held

/-- A named container presented as a port value of a command's VL bits; a container of another width does not present one
(70_reset_and_hazards.md R344 item 3). -/
def Harness.container (h : Harness) (vl : VecLen) (name : Nat) : Option Container :=
  match lookupName name h.containers with
  | none => none
  | some x => if x.vl = vl then some x.bits else none

/-- FPCORE with the ports of a command presented and its word issued; `none` where an operand the command reads is not
there (70_reset_and_hazards.md R344 items 2 to 5). DPRIOR is the destination's own value (00_scope.md R18). -/
def Harness.present (h : Harness) (i : Instr) (w : CmdWord) (dst a b c k : Nat) : Option State := do
  let va ← portValue (i.reads .a) (h.container i.fields.vl a) h.core.a
  let vb ← portValue (i.reads .b) (h.container i.fields.vl b) h.core.b
  let vc ← portValue (i.reads .c) (h.container i.fields.vl c) h.core.c
  let vd ← portValue (i.reads .dprior) (h.container i.fields.vl dst) h.core.dprior
  let vk ← portValue (i.reads .k) (lookupName k h.masks) h.core.k
  pure { h.core with a := va, b := vb, c := vc, dprior := vd, k := vk, cmd := some w }

/-- After the response: the destination is stored when FAULT = 0; the run stops when FAULT = 1
(70_reset_and_hazards.md R344 item 6, 60_exceptions.md R312). CTRL_OUT is in the control register already (log entry
10). -/
def Harness.take (h : Harness) (i : Instr) (dst : Nat) (t : State) (rest : List Action) : Harness :=
  if t.fault then { h with core := t, program := rest, stopped := true }
  else if i.op.isMask then { h with core := t, program := rest, masks := storeName dst t.kresult h.masks }
  else { h with core := t, program := rest, containers := storeName dst ⟨i.fields.vl, t.result⟩ h.containers }

/-- One action of the program (92_eei_decisions.md D41). A stopped run is stuck (93_implementation_defined.md P14); a
program that is done stays as it is. -/
def Harness.step (h : Harness) : Host.Outcome Harness Fault Refusal :=
  if h.stopped then .fault .stoppedByFpFault
  else
    match h.program with
    | [] => .next h
    | .writeCtrl v :: rest => .next { h with core := { h.core with ctrl := v }, program := rest }
    | .command w dst a b c k :: rest =>
      match decode w with
      | .error why => .refused (.reservedCommand why)
      | .ok i =>
        match h.present i w dst a b c k with
        | none => .refused .operandNotPresented
        | some s =>
          match Sys2Proof.Machine.step s with
          | .next t => .next (h.take i dst t rest)
          | .fault r => .fault r
          | .refused r => .refused r

/-- The program run to its end or its stop, at most `n` actions. -/
def Harness.run : Nat → Harness → Host.Outcome Harness Fault Refusal
  | 0, h => .next h
  | n + 1, h =>
    match h.step with
    | .next h' => Harness.run n h'
    | .fault r => .fault r
    | .refused r => .refused r

end Sys2Proof.Machine
end

