-- ==== Sys2Proof/Safety.lean ====
section
/-! DEFINITION. The terms claims are stated in: the exact value of a lane, correct rounding, the order of extended reals,
what an active lane of a command answers, and when a response is consistent. None of it is read by the machine. -/

namespace Sys2Proof.Machine

variable {p : Prec}

/-- `mag(v)` of a finite value as a rational, read off 40_numerics.md R105 and not off the model's units. -/
def magQ (v : Lane p) : ℚ :=
  if expf v = 0 then (frac v : ℚ) * (2 : ℚ) ^ (p.emin - (p.fb : ℤ))
  else ((2 : ℚ) ^ p.fb + (frac v : ℚ)) * (2 : ℚ) ^ ((expf v : ℤ) - (p.bias : ℤ) - (p.fb : ℤ))

/-- `val(v)` of a finite value as a rational (40_numerics.md R105). -/
def valQ (v : Lane p) : ℚ := if sign v then -magQ v else magQ v

/-- `a` is less than `b` in the extended reals, for two values that are not NaN (40_numerics.md R115). -/
def Below (a b : Lane p) : Prop :=
  (isInf a = true ∧ sign a = true ∧ ¬ (isInf b = true ∧ sign b = true)) ∨
  (isInf b = true ∧ sign b = false ∧ ¬ (isInf a = true ∧ sign a = false)) ∨
  (isFinite a = true ∧ isFinite b = true ∧ valQ a < valQ b)

/-- The least magnitude that rounds to an infinity under nearest-even: the largest finite value plus half a unit of its
last place (40_numerics.md R111, R112, R116). -/
def overflowThreshold (p : Prec) : ℚ := (2 : ℚ) ^ (p.emax + 1) - (2 : ℚ) ^ (p.emax - (p.sigBits : ℤ))

/-- `r` is the correctly rounded `x` of the format under a rounding mode, with the overflow values of 40_numerics.md R116:
the nearest finite value with ties to an even last bit; the greatest finite value not above `x`, the least not below it,
or the one nearest to it on the side of zero. -/
def RoundedTo (rm : RoundingMode) (r : Lane p) (x : ℝ) : Prop :=
  match rm with
  | .rn =>
    (|x| < (overflowThreshold p : ℝ) →
      isFinite r = true ∧
      (∀ y : Lane p, isFinite y = true → |(valQ r : ℝ) - x| ≤ |(valQ y : ℝ) - x|) ∧
      (∀ y : Lane p, isFinite y = true → valQ y ≠ valQ r → |(valQ y : ℝ) - x| = |(valQ r : ℝ) - x| →
        r.getLsbD 0 = false)) ∧
    ((overflowThreshold p : ℝ) ≤ |x| → (x < 0 → r = infinity true) ∧ (0 < x → r = infinity false))
  | .rd =>
    (r = infinity true ∧ ∀ y : Lane p, isFinite y = true → x < (valQ y : ℝ)) ∨
    (isFinite r = true ∧ (valQ r : ℝ) ≤ x ∧ ∀ y : Lane p, isFinite y = true → (valQ y : ℝ) ≤ x → valQ y ≤ valQ r)
  | .ru =>
    (r = infinity false ∧ ∀ y : Lane p, isFinite y = true → (valQ y : ℝ) < x) ∨
    (isFinite r = true ∧ x ≤ (valQ r : ℝ) ∧ ∀ y : Lane p, isFinite y = true → x ≤ (valQ y : ℝ) → valQ r ≤ valQ y)
  | .rz =>
    isFinite r = true ∧ |(valQ r : ℝ)| ≤ |x| ∧ 0 ≤ (valQ r : ℝ) * x ∧
      ∀ y : Lane p, isFinite y = true → |(valQ y : ℝ)| ≤ |x| → |valQ y| ≤ |valQ r|

/-- The exact value an operation rounds, from the exact values of its finite operands (41_arith.md R141 to R144,
42_fma.md R161 to R164, 48_round_reduce_scalef.md R266); none for an operation that is not a rational function of them. -/
def exactValue : Op → ℚ → ℚ → ℚ → Option ℚ
  | .add, a, b, _ => some (a + b)
  | .sub, a, b, _ => some (a - b)
  | .mul, a, b, _ => some (a * b)
  | .div, a, b, _ => some (a / b)
  | .fmadd, a, b, c => some (a * b + c)
  | .fmsub, a, b, c => some (a * b - c)
  | .fnmadd, a, b, c => some (-(a * b) + c)
  | .fnmsub, a, b, c => some (-(a * b) - c)
  | .scalef, a, b, _ => some (a * (2 : ℚ) ^ ⌊b⌋)
  | .min, _, _, _ | .max, _, _, _ | .sqrt, _, _, _ | .fixupimm, _, _, _ | .fpclass, _, _, _ | .getexp, _, _, _
  | .getmant, _, _, _ | .range, _, _, _ | .reduce, _, _, _ | .rndscale, _, _, _ | .cmp, _, _, _ => none

/-- The context the lanes of a command run in when its operation takes no override (43_status_context.md R171, R175). -/
def ambient (s : State) : StatusContext := StatusContext.fromControlRegister s.ctrl

/-- The context the lanes of RNDSCALE and REDUCE run in (43_status_context.md R174, R175). -/
def overridden (f : Fields) (s : State) : StatusContext := (ambient s).applyRoundingOverride f.imm8

/-- Operand A of lane `n` after `daz` (40_numerics.md R104). -/
def operandA (p : Prec) (s : State) (n : Nat) : Lane p := daz (ambient s) (laneOf p s.a n)
/-- Operand B of lane `n` after `daz` (40_numerics.md R104). -/
def operandB (p : Prec) (s : State) (n : Nat) : Lane p := daz (ambient s) (laneOf p s.b n)
/-- Operand C of lane `n` after `daz` (40_numerics.md R104). -/
def operandC (p : Prec) (s : State) (n : Nat) : Lane p := daz (ambient s) (laneOf p s.c n)

/-- Every exception is masked (10_state.md R24, 60_exceptions.md R301). -/
def AllMasked (s : State) : Prop := ctrlMasks s.ctrl = 0x3F#6

/-- Lane `n` is one the command computes: in range for its form and active under its mask (00_scope.md R18,
44_lanes_masking.md R192, R195, R196). -/
def ActiveLane (p : Prec) (form : Form) (f : Fields) (s : State) (n : Nat) : Prop :=
  n < form.loopLanes f.vl p ∧ laneActive f s.k n = true

/-- What the merge-back reports of flags raised under given masks: all of them, or only `I`, `D` and `Z` when one of those
three is raised and unmasked (43_status_context.md R176, R178). -/
def reportedFlags (masks raised : Flags) : Flags :=
  if raised &&& ~~~masks &&& preComputational = 0#6 then raised else raised &&& preComputational

/-- The response `t` to a command of a given form, issued in `s`, shows that one of its lanes raised `fl` (suppressed flags
left out), whatever is masked: an unmasked flag of the lane faults; its `I`, `D` and `Z` are reported, and all of `fl` unless
an unmasked one of those three is; with every exception masked nothing faults; and the one lane of a scalar form decides
FINAL_FLAGS and FAULT alone (43_status_context.md R176, R178; 60_exceptions.md R310). -/
def Reports (form : Form) (s t : State) (fl : Flags) : Prop :=
  (fl &&& ~~~ctrlMasks s.ctrl ≠ 0#6 → t.fault = true) ∧
  fl &&& preComputational &&& t.finalFlags = fl &&& preComputational ∧
  (t.finalFlags &&& ~~~ctrlMasks s.ctrl &&& preComputational = 0#6 → fl &&& t.finalFlags = fl) ∧
  (AllMasked s → t.fault = false) ∧
  (form = .scalar →
    t.finalFlags = reportedFlags (ctrlMasks s.ctrl) fl ∧ t.fault = decide (fl &&& ~~~ctrlMasks s.ctrl ≠ 0#6))

/-- The instruction completes with `v` in lane `n` of RESULT, the lane having raised `fl`: it answers a next state; the
lane is `v` whenever the response does not fault; and in every state, whatever is masked, the response reports `fl`. -/
def LaneAnswers (p : Prec) (i : Instr) (s : State) (n : Nat) (v : Lane p) (fl : Flags) : Prop :=
  ∃ t, exec i s = .next t ∧ (t.fault = false → laneOf p t.result n = v) ∧ Reports i.form s t fl

/-- The same for bit `n` of KRESULT. -/
def BitAnswers (i : Instr) (s : State) (n : Nat) (b : Bool) (fl : Flags) : Prop :=
  ∃ t, exec i s = .next t ∧ (t.fault = false → t.kresult.getLsbD n = b) ∧ Reports i.form s t fl

/-- A response is consistent: FAULT says exactly that a reported flag is unmasked, every reported flag stands in CTRL_OUT,
and an unmasked pre-computational flag is reported with no post-computational one (43_status_context.md R176, R178, R179;
60_exceptions.md R310). -/
def ResponseConsistent (s : State) : Prop :=
  s.fault = decide (s.finalFlags &&& ~~~ctrlMasks s.ctrlOut ≠ 0#6) ∧
  s.finalFlags &&& ctrlFlags s.ctrlOut = s.finalFlags ∧
  (s.finalFlags &&& ~~~ctrlMasks s.ctrlOut &&& preComputational ≠ 0#6 →
    s.finalFlags &&& preComputational = s.finalFlags)

/-- What collaborators can see of a response: CTRL_OUT, FINAL_FLAGS, FAULT, and on no fault the one result port the
operation drives (10_state.md R30). -/
def SameResponse (i : Instr) (t u : State) : Prop :=
  t.ctrlOut = u.ctrlOut ∧ t.finalFlags = u.finalFlags ∧ t.fault = u.fault ∧
  (t.fault = false → if i.op.isMask then t.kresult = u.kresult else t.result = u.result)

/-- A program that holds no write of the control register. -/
def commandsOnly (l : List Action) : Prop := ∀ x ∈ l, ∀ v, x ≠ .writeCtrl v

/-- Every sticky flag of the first control register stands in the second, and bits 15:6 agree (10_state.md R25). -/
def CtrlGrows (before after : CtrlWord) : Prop :=
  ctrlFlags before &&& ctrlFlags after = ctrlFlags before ∧ before.extractLsb' 6 10 = after.extractLsb' 6 10

/-- The largest finite magnitude (40_numerics.md R116). -/
def maxQ (p : Prec) : ℚ := (2 : ℚ) ^ (p.emax + 1) - (2 : ℚ) ^ (p.emax + 1 - (p.sigBits : ℤ))

/-- Rounded to `p` bits with an unbounded exponent, `x` is `2^(EMAX+1)` or more in magnitude (40_numerics.md R112): a mode
that rounds this sign away from zero carries every value above the largest finite one there. -/
def Overflows (p : Prec) (rm : RoundingMode) (x : ℚ) : Prop :=
  match rm with
  | .rn => overflowThreshold p ≤ |x|
  | .rd => if x < 0 then maxQ p < |x| else (2 : ℚ) ^ (p.emax + 1) ≤ |x|
  | .ru => if x < 0 then (2 : ℚ) ^ (p.emax + 1) ≤ |x| else maxQ p < |x|
  | .rz => (2 : ℚ) ^ (p.emax + 1) ≤ |x|

/-- Rounded to `p` bits with an unbounded exponent, `x` is not 0 and below `2^EMIN` in magnitude (40_numerics.md R112, R117):
just below `2^EMIN` such values lie `2^(EMIN - p)` apart. -/
def TinyAfterRounding (p : Prec) (rm : RoundingMode) (x : ℚ) : Prop :=
  x ≠ 0 ∧
  match rm with
  | .rn => |x| < (2 : ℚ) ^ p.emin - (2 : ℚ) ^ (p.emin - (p.sigBits : ℤ) - 1)
  | .rd => if x < 0 then |x| ≤ (2 : ℚ) ^ p.emin - (2 : ℚ) ^ (p.emin - (p.sigBits : ℤ)) else |x| < (2 : ℚ) ^ p.emin
  | .ru => if x < 0 then |x| < (2 : ℚ) ^ p.emin else |x| ≤ (2 : ℚ) ^ p.emin - (2 : ℚ) ^ (p.emin - (p.sigBits : ℤ))
  | .rz => |x| < (2 : ℚ) ^ p.emin

/-- `x` has at most `p` significant bits: rounding it to full precision with an unbounded exponent changes nothing, so that
`x1` is 0 (40_numerics.md R112). -/
def FitsPrecision (p : Prec) (x : ℚ) : Prop := ∃ k e : ℤ, |k| < 2 ^ p.sigBits ∧ x = (k : ℚ) * (2 : ℚ) ^ e

/-- `x` is a multiple of the smallest denormal: rounding it to the denormal grid changes nothing, so that `x2` is 0
(40_numerics.md R117). -/
def OnDenormalGrid (p : Prec) (x : ℚ) : Prop := ∃ k : ℤ, x = (k : ℚ) * (2 : ℚ) ^ (p.emin - (p.fb : ℤ))

/-- `y` is `x` rounded to a multiple of `q` under a rounding mode (40_numerics.md R111). -/
def RoundedToMultiple (rm : RoundingMode) (y x q : ℚ) : Prop :=
  ∃ k : ℤ, y = k * q ∧
    match rm with
    | .rn => |x - y| ≤ q / 2 ∧ (|x - y| = q / 2 → Even k)
    | .rd => y ≤ x ∧ x < y + q
    | .ru => x ≤ y ∧ y < x + q
    | .rz => 0 ≤ y * x ∧ |y| ≤ |x| ∧ |x| < |y| + q

/-- The operand lanes an operation reads, FIXUPIMM's response operand and prior destination apart
(10_state.md R26). -/
def operandList (op : Op) (a b c : Lane p) : List (Lane p) :=
  a :: ((if op.readsB then [b] else []) ++ (if op.readsC then [c] else []))

/-- The operand lanes of lane `n`, after `daz`. -/
def operands (p : Prec) (op : Op) (s : State) (n : Nat) : List (Lane p) :=
  operandList op (operandA p s n) (operandB p s n) (operandC p s n)

/-- `D` when one of the operands is a denormal (40_numerics.md R114). -/
def denormalFlag (xs : List (Lane p)) : Flags := flagIf (xs.any isDenorm) flagD

/-- The sign of the product of FMADD and its variants, and of its addend (42_fma.md R160 to R164); of the two terms of ADD
and SUB (41_arith.md R141, R142). -/
def termSigns (op : Op) (a b c : Lane p) : Bool × Bool :=
  match op with
  | .add => (sign a, sign b)
  | .sub => (sign a, !sign b)
  | .fmadd => (sign a != sign b, sign c)
  | .fmsub => (sign a != sign b, !sign c)
  | .fnmadd => (sign a == sign b, sign c)
  | .fnmsub => (sign a == sign b, !sign c)
  | _ => (false, false)

/-- Whether an operation is one of the four fused ones (42_fma.md R160). -/
def isFma (op : Op) : Prop := op = .fmadd ∨ op = .fmsub ∨ op = .fnmadd ∨ op = .fnmsub

/-- Operands, none a NaN, for which an operation is invalid and answers the default NaN (41_arith.md R141 to R147,
42_fma.md R160, 48_round_reduce_scalef.md R266; the table of 60_exceptions.md R302 without its NaN entries). -/
def InvalidOperands (op : Op) (a b c : Lane p) : Prop :=
  match op with
  | .add => isInf a = true ∧ isInf b = true ∧ sign a ≠ sign b
  | .sub => isInf a = true ∧ isInf b = true ∧ sign a = sign b
  | .mul => (isZero a = true ∧ isInf b = true) ∨ (isInf a = true ∧ isZero b = true)
  | .div => (isZero a = true ∧ isZero b = true) ∨ (isInf a = true ∧ isInf b = true)
  | .sqrt => sign a = true ∧ isZero a = false
  | .fmadd | .fmsub | .fnmadd | .fnmsub =>
    (isZero a = true ∧ isInf b = true) ∨ (isInf a = true ∧ isZero b = true) ∨
    ((isInf a = true ∨ isInf b = true) ∧ isInf c = true ∧ (termSigns op a b c).1 ≠ (termSigns op a b c).2)
  | .scalef => (isZero a = true ∧ b = infinity false) ∨ (isInf a = true ∧ b = infinity true)
  | .min | .max | .fixupimm | .fpclass | .getexp | .getmant | .range | .reduce | .rndscale | .cmp => False

/-- What the rules answer without rounding for operands that are neither NaN nor invalid; none where they round
(41_arith.md R141 to R144, R147; 42_fma.md R160; 48_round_reduce_scalef.md R266). -/
def specialValue (op : Op) (a b c : Lane p) : Option (Lane p) :=
  match op with
  | .add => if isInf a then some a else if isInf b then some b else none
  | .sub => if isInf a then some a else if isInf b then some (infinity (!sign b)) else none
  | .mul =>
    if isInf a || isInf b then some (infinity (sign a != sign b))
    else if isZero a || isZero b then some (signedZero (sign a != sign b))
    else none
  | .div =>
    if isInf a || isZero b then some (infinity (sign a != sign b))
    else if isInf b || isZero a then some (signedZero (sign a != sign b))
    else none
  | .sqrt => if isZero a || isInf a then some a else none
  | .fmadd | .fmsub | .fnmadd | .fnmsub =>
    if isInf a || isInf b then some (infinity (termSigns op a b c).1)
    else if isInf c then some (infinity (termSigns op a b c).2)
    else none
  | .scalef =>
    if b = infinity false then some (infinity (sign a))
    else if b = infinity true then some (signedZero (sign a))
    else if isInf a || isZero a then some a
    else none
  | .min | .max | .fixupimm | .fpclass | .getexp | .getmant | .range | .reduce | .rndscale | .cmp => none

/-- FIXUPIMM's token number of a source after `daz` (45_classify_fixup.md R222, the table's third column). -/
def fixupToken (t : Lane p) : Nat :=
  if isQNaN t then 0
  else if isSNaN t then 1
  else if isZero t then 2
  else if t = signedOne false then 3
  else if isInf t && sign t then 4
  else if isInf t then 5
  else if sign t then 6
  else 7

/-- FIXUPIMM's fixed substitutions, single (45_classify_fixup.md R223, the column "single"); none where the action depends on
the source or the destination. -/
def fixupConstantSingle : Nat → Option (BitVec 32)
  | 3 => some 0xFFC00000#32
  | 4 => some 0xFF800000#32
  | 5 => some 0x7F800000#32
  | 7 => some 0x80000000#32
  | 8 => some 0x00000000#32
  | 9 => some 0xBF800000#32
  | 10 => some 0x3F800000#32
  | 11 => some 0x3F000000#32
  | 12 => some 0x42B40000#32
  | 13 => some 0x3FC90FDB#32
  | 14 => some 0x7F7FFFFF#32
  | 15 => some 0xFF7FFFFF#32
  | _ => none

/-- FIXUPIMM's fixed substitutions, double (45_classify_fixup.md R223, the column "double"). -/
def fixupConstantDouble : Nat → Option (BitVec 64)
  | 3 => some 0xFFF8000000000000#64
  | 4 => some 0xFFF0000000000000#64
  | 5 => some 0x7FF0000000000000#64
  | 7 => some 0x8000000000000000#64
  | 8 => some 0x0000000000000000#64
  | 9 => some 0xBFF0000000000000#64
  | 10 => some 0x3FF0000000000000#64
  | 11 => some 0x3FE0000000000000#64
  | 12 => some 0x4056800000000000#64
  | 13 => some 0x3FF921FB54442D18#64
  | 14 => some 0x7FEFFFFFFFFFFFFF#64
  | 15 => some 0xFFEFFFFFFFFFFFFF#64
  | _ => none

/-- The fixed substitution of a response code in either format (45_classify_fixup.md R223). -/
def fixupConstant : (p : Prec) → Nat → Option (Lane p)
  | .single => fixupConstantSingle
  | .double => fixupConstantDouble

/-- The value of a response code (45_classify_fixup.md R223). -/
def fixupValue (code : Nat) (dst t : Lane p) : Lane p :=
  match fixupConstant p code with
  | some v => v
  | none => if code = 0 then dst else if code = 1 then t else if code = 2 then quiet t else infinity (sign t)

/-- FIXUPIMM's request for `I`, by the table's last column (45_classify_fixup.md R222, 30_encoding.md R82). -/
def fixupInvalid (imm8 : BitVec 8) (t : Lane p) : Bool :=
  (imm8.getLsbD 1 && fixupToken t == 2) || (imm8.getLsbD 3 && fixupToken t == 3) ||
  (imm8.getLsbD 4 && fixupToken t == 1) || (imm8.getLsbD 5 && fixupToken t == 4) ||
  (imm8.getLsbD 6 && fixupToken t == 6) || (imm8.getLsbD 7 && fixupToken t == 5)

/-- FIXUPIMM's request for `Z`, by the table's fifth column (45_classify_fixup.md R222, 30_encoding.md R82). -/
def fixupDivide (imm8 : BitVec 8) (t : Lane p) : Bool :=
  (imm8.getLsbD 0 && fixupToken t == 2) || (imm8.getLsbD 2 && fixupToken t == 3)

/-- When an operation raises `I` for operands after `daz`: the table of 60_exceptions.md R302. -/
def RaisesInvalid (op : Op) (imm8 : BitVec 8) (a b c : Lane p) : Prop :=
  match op with
  | .min | .max => isNaN a = true ∨ isNaN b = true
  | .fixupimm => fixupInvalid imm8 a = true
  | .fpclass => False
  | .cmp =>
    isSNaN a = true ∨ isSNaN b = true ∨
    ((predicateOf (immPredicate imm8)).signaling = true ∧ (isNaN a = true ∨ isNaN b = true))
  | op =>
    (∃ x ∈ operandList op a b c, isSNaN x = true) ∨
    ((∀ x ∈ operandList op a b c, isNaN x = false) ∧ InvalidOperands op a b c)

/-- When an operation raises `D` for operands after `daz` (40_numerics.md R114, 60_exceptions.md R303). -/
def RaisesDenormal (op : Op) (imm8 : BitVec 8) (a b c : Lane p) : Prop :=
  op ≠ .fpclass ∧ op ≠ .fixupimm ∧ op ≠ .rndscale ∧
  (∀ x ∈ operandList op a b c, isNaN x = false) ∧ ¬ RaisesInvalid op imm8 a b c ∧
  ∃ x ∈ operandList op a b c, isDenorm x = true

/-- When an operation raises `Z` for operands after `daz` (60_exceptions.md R304). -/
def RaisesDivide (op : Op) (imm8 : BitVec 8) (a b : Lane p) : Prop :=
  (op = .div ∧ isFinite a = true ∧ isZero a = false ∧ isZero b = true) ∨
  (op = .fixupimm ∧ fixupDivide imm8 a = true)

/-- The flags an operation can raise (41_arith.md R148, 60_exceptions.md R302 to R307). -/
def possibleFlags : Op → Flags
  | .add | .sub | .mul | .fmadd | .fmsub | .fnmadd | .fnmsub | .scalef => flagI ||| flagD ||| flagO ||| flagU ||| flagP
  | .div => 0x3F#6
  | .min | .max | .range | .getexp | .getmant | .cmp => flagI ||| flagD
  | .sqrt => flagI ||| flagD ||| flagP
  | .fixupimm => flagI ||| flagZ
  | .fpclass => 0#6
  | .reduce => flagI ||| flagD ||| flagU ||| flagP
  | .rndscale => flagI ||| flagP

/-- The bits of the immediate byte an operation reads (30_encoding.md R77 to R83). -/
def immediateRead : Op → BitVec 8
  | .cmp => 0x1F#8
  | .getmant | .range => 0x0F#8
  | .fpclass | .fixupimm | .reduce | .rndscale => 0xFF#8
  | .add | .sub | .mul | .div | .min | .max | .sqrt | .fmadd | .fmsub | .fnmadd | .fnmsub | .getexp | .scalef => 0#8

/-- What a lane function answers, whichever kind its result is (44_lanes_masking.md R201, `lane_op`). -/
structure LaneResult (p : Prec) where
  val : Lane p
  bit : Bool
  flags : Flags
deriving DecidableEq, Repr

/-- A value result. -/
def LaneResult.ofValue (r : LaneOut p) : LaneResult p := ⟨r.val, false, r.flags⟩
/-- A mask result. -/
def LaneResult.ofBit (r : BitOut) : LaneResult p := ⟨0#p.width, r.bit, r.flags⟩

/-- `lane_op`: the lane function of an operation (30_encoding.md R72, 44_lanes_masking.md R201). -/
def laneOp (op : Op) (sc : StatusContext) (imm8 : BitVec 8) (x : LaneArgs p) : LaneResult p :=
  match op with
  | .add => .ofValue (addLane sc imm8 x)
  | .sub => .ofValue (subLane sc imm8 x)
  | .mul => .ofValue (mulLane sc imm8 x)
  | .div => .ofValue (divLane sc imm8 x)
  | .min => .ofValue (minLane sc imm8 x)
  | .max => .ofValue (maxLane sc imm8 x)
  | .sqrt => .ofValue (sqrtLane sc imm8 x)
  | .fmadd => .ofValue (fmaddLane sc imm8 x)
  | .fmsub => .ofValue (fmsubLane sc imm8 x)
  | .fnmadd => .ofValue (fnmaddLane sc imm8 x)
  | .fnmsub => .ofValue (fnmsubLane sc imm8 x)
  | .fixupimm => .ofValue (fixupimmLane sc imm8 x)
  | .fpclass => .ofBit (fpclassLane sc imm8 x)
  | .getexp => .ofValue (getexpLane sc imm8 x)
  | .getmant => .ofValue (getmantLane sc imm8 x)
  | .range => .ofValue (rangeLane sc imm8 x)
  | .reduce => .ofValue (reduceLane sc imm8 x)
  | .rndscale => .ofValue (rndscaleLane sc imm8 x)
  | .scalef => .ofValue (scalefLane sc imm8 x)
  | .cmp => .ofBit (cmpLane sc imm8 x)

/-- The context the lanes of an operation run in (43_status_context.md R175). -/
def commandContext (op : Op) (f : Fields) (s : State) : StatusContext :=
  if op = .reduce ∨ op = .rndscale then overridden f s else ambient s

/-- What `lane_op` answers for lane `n` of a command. -/
def laneResult (p : Prec) (op : Op) (f : Fields) (s : State) (n : Nat) : LaneResult p :=
  laneOp op (commandContext op f s) f.imm8 (s.laneArgs p n)

/-- `X.lane(n) <- v` (00_scope.md R13). -/
def setLane (p : Prec) (x : Container) (n : Nat) (v : Lane p) : Container :=
  (x &&& ~~~((BitVec.allOnes p.width).setWidth 512 <<< (p.width * n))) ||| (v.setWidth 512 <<< (p.width * n))

/-- `KR[n] <- b`. -/
def setMaskBit (m : MaskWord) (n : Nat) (b : Bool) : MaskWord :=
  (m &&& ~~~(1#32 <<< n)) ||| ((BitVec.ofBool b).setWidth 32 <<< n)

/-- What the lane loop of 44_lanes_masking.md R201 carries from lane to lane. -/
structure LoopState where
  sc : StatusContext
  r : Container
  kr : MaskWord
deriving DecidableEq, Repr

/-- One pass of the loop of 44_lanes_masking.md R201, lane `n`. -/
def loopBody (i : Instr) (s : State) (l : LoopState) (n : Nat) : LoopState :=
  let bit := if i.fields.maskEn then s.k.getLsbD n else true
  let zpol := if i.fields.maskEn then i.fields.zero else true
  if bit then
    let r : LaneResult i.prec := laneOp i.op l.sc i.fields.imm8 (s.laneArgs i.prec n)
    if i.op.isMask then { l with sc := l.sc.flag r.flags, kr := setMaskBit l.kr n r.bit }
    else { l with sc := l.sc.flag r.flags, r := setLane i.prec l.r n r.val }
  else if i.op.isMask then l
  else { l with r := setLane i.prec l.r n (if zpol then 0#i.prec.width else laneOf i.prec s.dprior n) }

/-- Steps 2 and 3 of 44_lanes_masking.md R201: the context built, then the lanes visited in order, each with the context the
one before it left. -/
def commandLoop (i : Instr) (s : State) : LoopState :=
  (List.range (i.form.loopLanes i.fields.vl i.prec)).foldl (loopBody i s)
    { sc := commandContext i.op i.fields s, r := 0#512, kr := 0#32 }

/-- The control register with another rounding mode in bits 14:13 (10_state.md R24). -/
def withRc (c : CtrlWord) (rm : RoundingMode) : CtrlWord := c.extractLsb' 15 1 ++ rm.code ++ c.extractLsb' 0 13

/-- The control register with every exception masked and the flush-to-zero in force kept: FZ stands only where underflow was
masked already, so that `fuz` is what it was (10_state.md R24, 43_status_context.md R171). -/
def maskAll (c : CtrlWord) : CtrlWord :=
  BitVec.ofBool (c.getLsbD 15 && c.getLsbD 11) ++ c.extractLsb' 13 2 ++ 0x3F#6 ++ c.extractLsb' 0 7

/-- Two states agree on all that a command reads: `CTRL`, the mask bits of its lanes, the operand lanes its active lanes read,
and the prior destination where FIXUPIMM or a merged lane reads it (10_state.md R26, R27; 44_lanes_masking.md R195 to
R199). -/
def AgreeWhereRead (p : Prec) (form : Form) (op : Op) (f : Fields) (s u : State) : Prop :=
  s.ctrl = u.ctrl ∧
  ∀ n < form.loopLanes f.vl p,
    (f.maskEn = true → s.k.getLsbD n = u.k.getLsbD n) ∧
    (laneActive f s.k n = true →
      laneOf p s.a n = laneOf p u.a n ∧ (op.readsB = true → laneOf p s.b n = laneOf p u.b n) ∧
      (op.readsC = true → laneOf p s.c n = laneOf p u.c n) ∧
      (op = .fixupimm → laneOf p s.dprior n = laneOf p u.dprior n)) ∧
    (laneActive f s.k n = false → zeroPolicy f = false → op.isMask = false →
      laneOf p s.dprior n = laneOf p u.dprior n)

/-- Both instructions complete, with responses no collaborator can tell apart. -/
def SameAnswer (i j : Instr) (s u : State) : Prop :=
  ∃ t v, exec i s = .next t ∧ exec j u = .next v ∧ SameResponse i t v

/-- The words of 43_status_context.md R180: `FINAL_FLAGS`, `FAULT` and `CTRL_OUT` of a command whose lanes left given sticky
flags, under a control register and a suppression set. -/
def mergeOutcome (ctrl : CtrlWord) (sticky suppress : Flags) : Flags × Bool × CtrlWord :=
  let sc := { StatusContext.fromControlRegister ctrl with stickyFlags := sticky, suppressFlags := suppress }
  (sc.finalFlags, sc.shouldFault, mergedCtrl ctrl sc.finalFlags)

end Sys2Proof.Machine
end

