-- ==== Sys2Proof/Certificates/Slice0/Obligations.lean ====
section
/-! DEFINITION. The statements about FPCORE. `Instr.build f op p form` is the instruction `<OP>.<form>` with operand fields
`f`; a statement over every `op`, `p` and `form` speaks of all eighty instructions. FPCORE has no memory
(20_memory.md R50), so no frame here speaks of a byte of memory. "The spec's own D<n>" is a decision of
92_eei_decisions.md that the cited rules follow (log entry 20). -/

open Sys2Proof Sys2Proof.Machine

/-! ### Encoding -/

/-- Decoding the encoding of any instruction gives it back, every operand at every value (30_encoding.md R71 to R73). All
eighty constructors. Rests on the spec's own D4 (log entry 20). -/
def Obligations.DecodeOfEncode : Prop := ∀ i : Instr, decode (encode i) = .ok i

/-- The reserved words are those with `op` 20 to 31, `vl = 3` or a reserved bit set; the decoder rejects exactly these, and a
step refuses a command that is one (30_encoding.md R75). Rests on the spec's own D4 and D35 (log entry 20). -/
def Obligations.ReservedCommandsAreRefused : Prop :=
  (∀ w : CmdWord,
    (∃ why, decode w = .error why) ↔
      (20 ≤ (w.extractLsb' 0 5).toNat ∨ w.extractLsb' 7 2 = 3#2 ∨ w.extractLsb' 11 5 ≠ 0#5 ∨ w.extractLsb' 24 8 ≠ 0#8)) ∧
  (∀ (s : State) (w : CmdWord) (why : Reserved), s.cmd = some w → decode w = .error why →
    step s = .refused (.reservedCommand why))

/-- The fields of a decoded instruction are the slices of the word that the one format gives (30_encoding.md R71), and its
selection is bits 6:0 under the mask of R73. Rests on the spec's own D4 (log entry 20). -/
def Obligations.FieldsOfTheWord : Prop :=
  ∀ (w : CmdWord) (i : Instr), decode w = .ok i →
    i.op.code = w.extractLsb' 0 5 ∧ i.prec.code = w.extractLsb' 5 1 ∧ i.form.code = w.extractLsb' 6 1 ∧
    i.fields.vl.code = w.extractLsb' 7 2 ∧ i.fields.maskEn = w.getLsbD 9 ∧ i.fields.zero = w.getLsbD 10 ∧
    i.fields.imm8 = w.extractLsb' 16 8 ∧
    w &&& 0xFF00F87F#32 =
      i.op.code.setWidth 32 ||| (i.prec.code.setWidth 32 <<< 5) ||| (i.form.code.setWidth 32 <<< 6)

/-- Words of 96_test_vectors_families.md 2.16 decode to the commands named beside them (30_encoding.md R71 to R73).
Rests on the spec's own D4 (log entry 20). -/
def Obligations.SampleWordsDecode : Prop :=
  decode 0x00000200#32 = .ok (.addPs ⟨.v128, true, false, 0x00#8⟩) ∧
  decode 0x00000123#32 = .ok (.divPd ⟨.v512, false, false, 0x00#8⟩) ∧
  decode 0x00140151#32 = .ok (.rndscaleSs ⟨.v512, false, false, 0x14#8⟩) ∧
  decode 0x00110373#32 = .ok (.cmpSd ⟨.v512, true, false, 0x11#8⟩) ∧
  decode 0x00FE004C#32 = .ok (.fpclassSs ⟨.v128, false, false, 0xFE#8⟩) ∧
  decode 0x000000E7#32 = .ok (.fmaddSd ⟨.v256, false, false, 0x00#8⟩) ∧
  decode 0x0000076A#32 = .ok (.fnmsubSd ⟨.v512, true, true, 0x00#8⟩)

/-! ### The step -/

/-- A step runs the decoded instruction: nothing is added around `exec`, which itself answers the command and takes its word
off the port (44_lanes_masking.md R201; log entry 1). -/
def Obligations.StepRunsTheDecodedInstruction : Prop :=
  ∀ (s : State) (w : CmdWord) (i : Instr), s.cmd = some w → decode w = .ok i → step s = exec i s

/-- With no command issued a step changes nothing, and the reset state is such a state: after reset FPCORE waits for its
first command (70_reset_and_hazards.md R343). That waiting is a step which changes nothing is the model's choice (log
entry 1). -/
def Obligations.WaitsForACommand : Prop :=
  (∀ s : State, s.cmd = none → step s = .next s) ∧ State.reset.cmd = none

/-! ### The status context -/

/-- `from_control_register`: every field of the fresh context, read off the bits of CTRL (43_status_context.md R171).
Rests on the spec's own D5, D6 and D7 (the layout and the codes) (log entry 20). -/
def Obligations.ContextOfTheControlRegister : Prop :=
  ∀ c : CtrlWord,
    (StatusContext.fromControlRegister c).roundingMode.code = c.extractLsb' 13 2 ∧
    (StatusContext.fromControlRegister c).exceptionMasks = c.extractLsb' 7 6 ∧
    (StatusContext.fromControlRegister c).daz = c.getLsbD 6 ∧
    (StatusContext.fromControlRegister c).fuz = (c.getLsbD 15 && c.getLsbD 11) ∧
    (StatusContext.fromControlRegister c).stickyFlags = 0#6 ∧
    (StatusContext.fromControlRegister c).suppressFlags = 0#6

/-- `apply_rounding_override` on the context of a command: the mode is `imm8[1:0]` when `imm8[2] = 0` and unchanged else; `P`
joins the suppressed flags when `imm8[3] = 1`; every other field stands (43_status_context.md R174).
Rests on the spec's own D7 and D8 (log entry 20). -/
def Obligations.RoundingOverride : Prop :=
  ∀ (sc : StatusContext) (imm8 : BitVec 8),
    (imm8.getLsbD 2 = false → (sc.applyRoundingOverride imm8).roundingMode.code = imm8.extractLsb' 0 2) ∧
    (imm8.getLsbD 2 = true → (sc.applyRoundingOverride imm8).roundingMode = sc.roundingMode) ∧
    (∀ j, (sc.applyRoundingOverride imm8).suppressFlags.getLsbD j =
      (sc.suppressFlags.getLsbD j || (decide (j = 5) && imm8.getLsbD 3))) ∧
    (sc.applyRoundingOverride imm8).exceptionMasks = sc.exceptionMasks ∧
    (sc.applyRoundingOverride imm8).daz = sc.daz ∧ (sc.applyRoundingOverride imm8).fuz = sc.fuz ∧
    (sc.applyRoundingOverride imm8).stickyFlags = sc.stickyFlags

/-- `merge_back`, bit by bit: a flag is reported when a lane raised it, it is not suppressed, and, when a raised
unsuppressed flag of bits 0 to 2 (the pre-computational class) is unmasked, it is of that class; the command faults when a
reported flag is unmasked (43_status_context.md R176, R178). Rests on the spec's own D6 and D32 (log entry 20). -/
def Obligations.MergeBack : Prop :=
  ∀ (sc : StatusContext) (j : Nat), j < 6 →
    (sc.finalFlags.getLsbD j = true ↔
      sc.stickyFlags.getLsbD j = true ∧ sc.suppressFlags.getLsbD j = false ∧
      (j < 3 ∨ ∀ k < 3, sc.stickyFlags.getLsbD k = true → sc.suppressFlags.getLsbD k = false →
        sc.exceptionMasks.getLsbD k = true)) ∧
    (sc.shouldFault = true ↔ ∃ k < 6, sc.finalFlags.getLsbD k = true ∧ sc.exceptionMasks.getLsbD k = false)

/-! ### The whole command -/

/-- EVERY INSTRUCTION COMPLETES, all eighty, in every state: it answers a next state in which FAULT says exactly that an
unmasked flag is reported, CTRL_OUT is CTRL with the reported flags joined in, and both hold also when it faults
(60_exceptions.md R310, 43_status_context.md R179). -/
def Obligations.EveryInstructionResponds : Prop :=
  ∀ (i : Instr) (s : State), ∃ t, exec i s = .next t ∧
    (t.fault = true ↔ ∃ j < 6, t.finalFlags.getLsbD j = true ∧ s.ctrl.getLsbD (7 + j) = false) ∧
    (∀ j < 16, t.ctrlOut.getLsbD j = (s.ctrl.getLsbD j || t.finalFlags.getLsbD j))

/-- FRAME, all eighty instructions: no input port changes, bits 15:6 of CTRL do not change and no sticky flag of CTRL is
cleared (10_state.md R25). RESULT and KRESULT are destinations; SC is any value between commands. That the new CTRL is
CTRL_OUT in the same step is the model's inference (log entry 10); that the command is gone is its choice (log entry 1), and
so is that the input ports keep their values, which the spec gives one command's lifetime (log entry 18). -/
def Obligations.FrameOfEveryInstruction : Prop :=
  ∀ (i : Instr) (s t : State), exec i s = .next t →
    t.a = s.a ∧ t.b = s.b ∧ t.c = s.c ∧ t.dprior = s.dprior ∧ t.k = s.k ∧ CtrlGrows s.ctrl t.ctrl ∧
      t.ctrl = t.ctrlOut ∧ t.cmd = none

/-- THE COMMAND AS ONE FUNCTION, all eighty instructions: `exec`, which evaluates its lanes at once, answers what the loop
of 44_lanes_masking.md R201 answers, visiting the lanes in order, passing the status context from lane to lane, and writing
the result lane by lane. The loop is the spec's own summary of its rules R191 to R200, with its own D17, D18 and D33 (log
entry 20); that lanes can be evaluated at once is the model's inference (log entry 12). -/
def Obligations.ExecIsTheLaneLoop : Prop :=
  ∀ (i : Instr) (s : State), ∃ t, exec i s = .next t ∧
    t.finalFlags = (commandLoop i s).sc.finalFlags ∧ t.fault = (commandLoop i s).sc.shouldFault ∧
    t.ctrlOut = s.ctrl.extractLsb' 6 10 ++ (s.ctrl.extractLsb' 0 6 ||| (commandLoop i s).sc.finalFlags) ∧
    (t.fault = false →
      if i.op.isMask then t.kresult = (commandLoop i s).kr else t.result = (commandLoop i s).r)

/-- Lanes of a packed container result: lane `n` is what the lane function answers where the lane is active, and else zero
or the prior destination's lane, bit for bit (44_lanes_masking.md R194, R204). All packed instructions but FPCLASS
and CMP. -/
def Obligations.PackedResultLanes : Prop :=
  ∀ (op : Op) (p : Prec) (f : Fields) (s : State), op.isMask = false →
    ∃ t, exec (Instr.build f op p .packed) s = .next t ∧
      (t.fault = false → ∀ n < f.vl.bits / p.width,
        laneOf p t.result n =
          if f.maskEn = false ∨ s.k.getLsbD n = true then (laneResult p op f s n).val
          else if f.zero = true then 0#p.width else laneOf p s.dprior n)

/-- Scalar results: lane 0 is computed, zeroed or merged by `K[0]`; every lane above it is zero (44_lanes_masking.md R198).
All scalar instructions but FPCLASS and CMP. Rests on the spec's own D17 (conflict C4) (log entry 20). -/
def Obligations.ScalarResultLanes : Prop :=
  ∀ (op : Op) (p : Prec) (f : Fields) (s : State), op.isMask = false →
    ∃ t, exec (Instr.build f op p .scalar) s = .next t ∧
      (t.fault = false →
        (laneOf p t.result 0 =
          if f.maskEn = false ∨ s.k.getLsbD 0 = true then (laneResult p op f s 0).val
          else if f.zero = true then 0#p.width else laneOf p s.dprior 0) ∧
        ∀ n, 1 ≤ n → n < f.vl.bits / p.width → laneOf p t.result n = 0#p.width)

/-- Mask results: bit `n` is the lane function's bit where the lane is active, 0 outside the mask whatever `zero` says, and 0
above the lanes visited (44_lanes_masking.md R199). FPCLASS and CMP, all four forms.
Rests on the spec's own D18 for FPCLASS (log entry 20). -/
def Obligations.MaskResultBits : Prop :=
  ∀ (op : Op) (p : Prec) (form : Form) (f : Fields) (s : State), op.isMask = true →
    ∃ t, exec (Instr.build f op p form) s = .next t ∧
      (t.fault = false → ∀ n < 32,
        (t.kresult.getLsbD n = true ↔
          n < (if form = .packed then f.vl.bits / p.width else 1) ∧ (f.maskEn = false ∨ s.k.getLsbD n = true) ∧
            (laneResult p op f s n).bit = true))

/-- A command with a mask operand and no active lane computes nothing, raises nothing, never faults, leaves CTRL as it is,
and answers zeros, or the prior destination's lanes under Merge (44_lanes_masking.md R196). All eighty instructions; for the
scalar forms the one lane is lane 0. For FPCLASS and CMP rests on the spec's own D18 and D39 (log entry 20). -/
def Obligations.FullyMaskedCommandIsSilent : Prop :=
  ∀ (op : Op) (p : Prec) (form : Form) (f : Fields) (s : State), f.maskEn = true →
    (∀ n < form.loopLanes f.vl p, s.k.getLsbD n = false) →
    ∃ t, exec (Instr.build f op p form) s = .next t ∧
      t.fault = false ∧ t.finalFlags = 0#6 ∧ t.ctrlOut = s.ctrl ∧
      (op.isMask = true → t.kresult = 0#32) ∧
      (op.isMask = false → ∀ n < form.loopLanes f.vl p,
        laneOf p t.result n = if f.zero = true then 0#p.width else laneOf p s.dprior n)

/-- The mask fields: without a mask operand a command behaves as one whose mask is all ones and whose policy is Zero, and its
field `zero` is ignored; CMP and FPCLASS ignore `zero` always (30_encoding.md R74, 44_lanes_masking.md R195). All eighty
instructions. Rests on the spec's own D39 (log entry 20). -/
def Obligations.MaskFields : Prop :=
  ∀ (op : Op) (p : Prec) (form : Form) (f : Fields) (s : State),
    SameAnswer (Instr.build { f with maskEn := false } op p form)
      (Instr.build { f with maskEn := true, zero := true } op p form) s { s with k := BitVec.allOnes 32 } ∧
    ∀ z : Bool, (f.maskEn = false ∨ op.isMask = true) →
      SameAnswer (Instr.build f op p form) (Instr.build { f with zero := z } op p form) s s

/-- NONINTERFERENCE, all eighty instructions: the response depends on CTRL, on the mask bits of the lanes in range, on the
operand lanes the active lanes read and on the prior destination where it is read, and on nothing else: no unread port, no
masked-off lane, no lane above the element count, no flag or result of an earlier command, no status context left over
(10_state.md R26, R34; 44_lanes_masking.md R191, R196). Rests on the spec's own D43 for ports (log entry 20). -/
def Obligations.ResponseDependsOnWhatIsRead : Prop :=
  ∀ (op : Op) (p : Prec) (form : Form) (f : Fields) (s u : State), AgreeWhereRead p form op f s u →
    SameAnswer (Instr.build f op p form) (Instr.build f op p form) s u

/-- Bits of the immediate byte an operation does not define change nothing (30_encoding.md R76, R77, R79, R80, R83).
Rests on the spec's own D43 (log entry 20). -/
def Obligations.UndefinedImmediateBitsIgnored : Prop :=
  ∀ (op : Op) (p : Prec) (form : Form) (f : Fields) (imm8 : BitVec 8) (s : State),
    f.imm8 &&& immediateRead op = imm8 &&& immediateRead op →
    SameAnswer (Instr.build f op p form) (Instr.build { f with imm8 := imm8 } op p form) s s

/-- The fault condition, all eighty instructions: a command faults exactly when a reported flag is unmasked, a suppressed
flag is not reported and so cannot fault, and sticky flags standing in CTRL before the command neither fault nor change its
answer: for any two control registers equal in bits 15:6 the result, FINAL_FLAGS and FAULT are the same (60_exceptions.md
R310). -/
def Obligations.OldStickyFlagsChangeNothing : Prop :=
  ∀ (i : Instr) (s : State) (c : CtrlWord), c.extractLsb' 6 10 = s.ctrl.extractLsb' 6 10 →
    ∃ t u, exec i s = .next t ∧ exec i { s with ctrl := c } = .next u ∧
      (t.fault = true ↔ ∃ j < 6, t.finalFlags.getLsbD j = true ∧ s.ctrl.getLsbD (7 + j) = false) ∧
      (∀ j, (commandContext i.op i.fields s).suppressFlags.getLsbD j = true → t.finalFlags.getLsbD j = false) ∧
      t.finalFlags = u.finalFlags ∧ t.fault = u.fault ∧
      (t.fault = false → if i.op.isMask then t.kresult = u.kresult else t.result = u.result)

/-- Issuing the same command again with the same port values gives the same response, and the second write-back changes no
bit of CTRL (20_memory.md R55). All eighty instructions. The second command runs on the state the first one left: that its
ports still hold the same values is the model's choice (log entry 18), and that CTRL already holds CTRL_OUT its inference
(log entry 10). -/
def Obligations.ReissueIsIdempotent : Prop :=
  ∀ (i : Instr) (s : State), ∃ t u, exec i s = .next t ∧ exec i t = .next u ∧ SameResponse i t u ∧ u.ctrl = t.ctrl

/-- DAZ: with denormals-are-zero set, replacing every denormal operand lane by the zero of its sign changes nothing
(40_numerics.md R104). FIXUPIMM's response operand `B` and the prior destination are not flushed and stay as they are. All
eighty instructions. Rests on the spec's own D23 (log entry 20). -/
def Obligations.DenormalsAreZero : Prop :=
  ∀ (op : Op) (p : Prec) (form : Form) (f : Fields) (s u : State), s.ctrl.getLsbD 6 = true → u.ctrl = s.ctrl →
    u.k = s.k → u.dprior = s.dprior →
    (∀ n < form.loopLanes f.vl p,
      laneOf p u.a n = flushDenormal true (laneOf p s.a n) ∧
      laneOf p u.b n = (if op = .fixupimm then laneOf p s.b n else flushDenormal true (laneOf p s.b n)) ∧
      laneOf p u.c n = flushDenormal true (laneOf p s.c n)) →
    SameAnswer (Instr.build f op p form) (Instr.build f op p form) s u

/-! ### Flags -/

/-- INVALID, all eighty instructions: `I` is reported exactly when some active lane's operands are in the table of
60_exceptions.md R302. Rests on the spec's own D20, D24, D29 and D31 (log entry 20). -/
def Obligations.InvalidExactlyWhen : Prop :=
  ∀ (op : Op) (p : Prec) (form : Form) (f : Fields) (s : State),
    ∃ t, exec (Instr.build f op p form) s = .next t ∧
      (t.finalFlags.getLsbD 0 = true ↔ ∃ n, ActiveLane p form f s n ∧
        RaisesInvalid op f.imm8 (operandA p s n) (operandB p s n) (operandC p s n))

/-- DENORMAL-OPERAND, all eighty instructions: `D` is reported exactly when in some active lane an operand is a denormal
after `daz`, none is a NaN, and the lane does not raise `I`; FPCLASS, FIXUPIMM and RNDSCALE never raise it
(40_numerics.md R114). Rests on the spec's own D22 (log entry 20). -/
def Obligations.DenormalExactlyWhen : Prop :=
  ∀ (op : Op) (p : Prec) (form : Form) (f : Fields) (s : State),
    ∃ t, exec (Instr.build f op p form) s = .next t ∧
      (t.finalFlags.getLsbD 1 = true ↔ ∃ n, ActiveLane p form f s n ∧
        RaisesDenormal op f.imm8 (operandA p s n) (operandB p s n) (operandC p s n))

/-- DIVIDE-BY-ZERO, all eighty instructions: `Z` is reported exactly when some active lane divides a finite non-zero value
by a zero, or is a FIXUPIMM whose token asks for it by its bit of the immediate (0 for a zero, 2 for +1.0); and GETEXP of a
zero answers minus infinity (60_exceptions.md R304, 45_classify_fixup.md R222). Rests on the spec's own D13 and D27 (log
entry 20). -/
def Obligations.DivideByZeroExactlyWhen : Prop :=
  ∀ (op : Op) (p : Prec) (form : Form) (f : Fields) (s : State),
    ∃ t, exec (Instr.build f op p form) s = .next t ∧
      (t.finalFlags.getLsbD 2 = true ↔ ∃ n, ActiveLane p form f s n ∧
        RaisesDivide op f.imm8 (operandA p s n) (operandB p s n)) ∧
      (op = .getexp → t.fault = false → ∀ n, ActiveLane p form f s n → isZero (operandA p s n) = true →
        laneOf p t.result n = infinity true)

/-- No instruction reports a flag its operation never raises (41_arith.md R148, 60_exceptions.md R302 to R307). For SQRT
(never `O` or `U`) and REDUCE (never `O`) this is a fact about the numbers. All eighty instructions. Which operations can
report `D` at all, RNDSCALE, FIXUPIMM and FPCLASS never, rests on the spec's own D22 (R114, R303; log entry 20); the silence
of FPCLASS, the flags of MIN, MAX and RANGE, and those of RNDSCALE and REDUCE on its own D18, D24, D29 and D30 (log entry
20). -/
def Obligations.OnlyPossibleFlags : Prop :=
  ∀ (i : Instr) (s : State), ∃ t, exec i s = .next t ∧ t.finalFlags &&& ~~~(possibleFlags i.op) = 0#6

/-! ### NaNs and special operands -/

/-- NaN propagation for two operands: ADD, SUB, MUL, DIV, SCALEF and REDUCE, all four forms. The first operand's NaN wins,
quieted, its sign and payload kept; `I` exactly for a signaling NaN (40_numerics.md R107, R109).
Rests on the spec's own D19 and D20 (log entry 20). -/
def Obligations.TwoOperandNaN : Prop :=
  ∀ (p : Prec) (form : Form) (f : Fields) (s : State) (n : Nat), ActiveLane p form f s n →
    (∀ op, (op = .add ∨ op = .sub ∨ op = .mul ∨ op = .div ∨ op = .scalef) →
      (isNaN (laneOf p s.a n) = true ∨ isNaN (laneOf p s.b n) = true) →
      LaneAnswers p (Instr.build f op p form) s n
        ((if isNaN (laneOf p s.a n) then laneOf p s.a n else laneOf p s.b n) ||| BitVec.twoPow p.width (p.fb - 1))
        (flagIf (isSNaN (laneOf p s.a n) || isSNaN (laneOf p s.b n)) flagI)) ∧
    (isNaN (laneOf p s.a n) = true →
      LaneAnswers p (Instr.build f .reduce p form) s n
        (laneOf p s.a n ||| BitVec.twoPow p.width (p.fb - 1)) (flagIf (isSNaN (laneOf p s.a n)) flagI))

/-- NaN propagation for one operand: SQRT, GETEXP, GETMANT and RNDSCALE, all four forms (40_numerics.md R108); GETMANT's sign
policy is not applied to a NaN (46_getexp_getmant.md R242). Rests on the spec's own D19 and D28 (log entry 20). -/
def Obligations.OneOperandNaN : Prop :=
  ∀ (p : Prec) (form : Form) (f : Fields) (s : State) (n : Nat) (op : Op), ActiveLane p form f s n →
    (op = .sqrt ∨ op = .getexp ∨ op = .getmant ∨ op = .rndscale) → isNaN (laneOf p s.a n) = true →
    LaneAnswers p (Instr.build f op p form) s n
      (laneOf p s.a n ||| BitVec.twoPow p.width (p.fb - 1)) (flagIf (isSNaN (laneOf p s.a n)) flagI)

/-- NaN propagation of FMADD, FMSUB, FNMADD, FNMSUB, all four forms: multiplicand, multiplier, addend; tested before
the invalid products and sums (40_numerics.md R110, whose priority is the spec's decision D20; log entry 20). -/
def Obligations.ThreeOperandNaN : Prop :=
  ∀ (p : Prec) (form : Form) (f : Fields) (s : State) (n : Nat) (op : Op), ActiveLane p form f s n → isFma op →
    (isNaN (laneOf p s.a n) = true ∨ isNaN (laneOf p s.b n) = true ∨ isNaN (laneOf p s.c n) = true) →
    LaneAnswers p (Instr.build f op p form) s n
      ((if isNaN (laneOf p s.a n) then laneOf p s.a n
        else if isNaN (laneOf p s.b n) then laneOf p s.b n else laneOf p s.c n) ||| BitVec.twoPow p.width (p.fb - 1))
      (flagIf (isSNaN (laneOf p s.a n) || isSNaN (laneOf p s.b n) || isSNaN (laneOf p s.c n)) flagI)

/-- Invalid operands that are not NaN give the default NaN, `0xFFC00000` or `0xFFF8000000000000`, and `I` alone: ADD, SUB,
MUL, DIV, SQRT, the four FMA operations and SCALEF, all four forms (40_numerics.md R106, 60_exceptions.md R302).
Rests on the spec's own D19 and D31 (log entry 20). -/
def Obligations.InvalidGivesTheDefaultNaN : Prop :=
  ∀ (form : Form) (f : Fields) (s : State) (n : Nat) (op : Op),
    (ActiveLane .single form f s n →
      (∀ x ∈ operands .single op s n, isNaN x = false) →
      InvalidOperands op (operandA .single s n) (operandB .single s n) (operandC .single s n) →
      LaneAnswers .single (Instr.build f op .single form) s n 0xFFC00000#32 0x01#6) ∧
    (ActiveLane .double form f s n →
      (∀ x ∈ operands .double op s n, isNaN x = false) →
      InvalidOperands op (operandA .double s n) (operandB .double s n) (operandC .double s n) →
      LaneAnswers .double (Instr.build f op .double form) s n 0xFFF8000000000000#64 0x01#6)

/-- Infinite and zero operands that are valid: ADD, SUB, MUL, DIV, SQRT, the four FMA operations and SCALEF answer the
infinity, zero or operand their rules give, with `D` for a denormal operand and, for a finite non-zero dividend over zero,
`Z` (41_arith.md R141 to R144, R147; 42_fma.md R160; 48_round_reduce_scalef.md R266). All four forms.
Rests on the spec's own D22, D26 and D31 (log entry 20). -/
def Obligations.SpecialOperands : Prop :=
  ∀ (p : Prec) (form : Form) (f : Fields) (s : State) (n : Nat) (op : Op) (v : Lane p), ActiveLane p form f s n →
    (∀ x ∈ operands p op s n, isNaN x = false) →
    ¬ InvalidOperands op (operandA p s n) (operandB p s n) (operandC p s n) →
    specialValue op (operandA p s n) (operandB p s n) (operandC p s n) = some v →
    LaneAnswers p (Instr.build f op p form) s n v
      (denormalFlag (operands p op s n) |||
        flagIf (op = .div && (isFinite (operandA p s n) && !isZero (operandA p s n) && isZero (operandB p s n))) flagZ)

/-! ### Rounded arithmetic -/

/-- CORRECT ROUNDING of ADD, SUB, MUL, DIV, FMADD, FMSUB, FNMADD, FNMSUB and SCALEF, both precisions, all four forms, all
four rounding modes: for finite operands (a non-zero divisor) the lane is the exact value rounded once, with the overflow
values of the mode, and a non-zero exact value keeps its sign; with flush-to-zero in force for every result that is not
tiny, without it for every result (40_numerics.md R111 to R113, R116; 41_arith.md R141 to R144; 42_fma.md R160 to R164;
48_round_reduce_scalef.md R266). Rests on the spec's own D21, D25 and D31 (log entry 20). -/
def Obligations.ArithmeticIsCorrectlyRounded : Prop :=
  ∀ (p : Prec) (form : Form) (f : Fields) (s : State) (n : Nat) (op : Op) (x : ℚ), ActiveLane p form f s n →
    (∀ y ∈ operands p op s n, isFinite y = true) → (op = .div → isZero (operandB p s n) = false) →
    exactValue op (valQ (operandA p s n)) (valQ (operandB p s n)) (valQ (operandC p s n)) = some x →
    ((ambient s).fuz = false ∨ ¬ TinyAfterRounding p (ambient s).roundingMode x) →
    ∃ (v : Lane p) (fl : Flags), LaneAnswers p (Instr.build f op p form) s n v fl ∧
      RoundedTo (ambient s).roundingMode v (x : ℝ) ∧ (x ≠ 0 → sign v = decide (x < 0))

/-- THE FLAGS OF ROUNDING in every state, for the operations of `ArithmeticIsCorrectlyRounded`, by the exact value `x`
alone. `O` when `x` rounded to full precision passes the largest finite value, with `P` when `O` is masked or that rounding
is inexact. Else, when it is tiny after rounding: flushed, `U` and `P`; with `U` masked, both exactly when the denormal grid
does not hold `x`; with `U` unmasked, `U` always and `P` exactly when the full-precision rounding is inexact. Else `P`
exactly when that rounding is inexact. `D` for a denormal operand. With every exception masked and no overflow, `P` says
exactly that the delivered value is not `x` (40_numerics.md R112, R116, R117). Rests on the spec's own D21 and D22 (log
entry 20). -/
def Obligations.FlagsOfRounding : Prop :=
  ∀ (p : Prec) (form : Form) (f : Fields) (s : State) (n : Nat) (op : Op) (x : ℚ), ActiveLane p form f s n →
    (∀ y ∈ operands p op s n, isFinite y = true) → (op = .div → isZero (operandB p s n) = false) →
    exactValue op (valQ (operandA p s n)) (valQ (operandB p s n)) (valQ (operandC p s n)) = some x →
    ∃ (v : Lane p) (fl : Flags),
      LaneAnswers p (Instr.build f op p form) s n v (denormalFlag (operands p op s n) ||| fl) ∧
      (Overflows p (ambient s).roundingMode x →
        ((s.ctrl.getLsbD 10 = true ∨ ¬ FitsPrecision p x) → fl = flagO ||| flagP) ∧
        (s.ctrl.getLsbD 10 = false → FitsPrecision p x → fl = flagO)) ∧
      (¬ Overflows p (ambient s).roundingMode x →
        (TinyAfterRounding p (ambient s).roundingMode x →
          ((ambient s).fuz = true → fl = flagU ||| flagP) ∧
          ((ambient s).fuz = false → s.ctrl.getLsbD 11 = true →
            (¬ OnDenormalGrid p x → fl = flagU ||| flagP) ∧ (OnDenormalGrid p x → fl = 0#6)) ∧
          (s.ctrl.getLsbD 11 = false →
            (¬ FitsPrecision p x → fl = flagU ||| flagP) ∧ (FitsPrecision p x → fl = flagU))) ∧
        (¬ TinyAfterRounding p (ambient s).roundingMode x →
          (¬ FitsPrecision p x → fl = flagP) ∧ (FitsPrecision p x → fl = 0#6)) ∧
        (AllMasked s → (fl.getLsbD 5 = true ↔ valQ v ≠ x)))

/-- FLUSH TO ZERO: with FZ set and underflow masked a tiny result of the same operations is the zero of its sign, exact or
not, with `U` and `P` (40_numerics.md R117, 43_status_context.md R172). Rests on the spec's own D21 (log entry 20). -/
def Obligations.TinyResultsFlushToZero : Prop :=
  ∀ (p : Prec) (form : Form) (f : Fields) (s : State) (n : Nat) (op : Op) (x : ℚ), ActiveLane p form f s n →
    (∀ y ∈ operands p op s n, isFinite y = true) → (op = .div → isZero (operandB p s n) = false) →
    exactValue op (valQ (operandA p s n)) (valQ (operandB p s n)) (valQ (operandC p s n)) = some x →
    s.ctrl.getLsbD 15 = true → s.ctrl.getLsbD 11 = true → TinyAfterRounding p (ambient s).roundingMode x →
    LaneAnswers p (Instr.build f op p form) s n (signedZero (decide (x < 0)))
      (denormalFlag (operands p op s n) ||| flagU ||| flagP)

/-- With underflow unmasked every tiny result faults, exact or not; with overflow unmasked every overflow faults; both
whatever else is masked and whatever FZ says. Where `I`, `D` and `Z` are masked, so that nothing is dropped from the report,
`U` or `O` is reported, with `P` when the rounding to full precision was inexact, and for a scalar form exactly then
(40_numerics.md R116, R117; 43_status_context.md R172; 60_exceptions.md R305, R306). Rests on the spec's own D21 (log entry
20). -/
def Obligations.UnmaskedRangeExceptionsFault : Prop :=
  ∀ (p : Prec) (form : Form) (f : Fields) (s : State) (n : Nat) (op : Op) (x : ℚ), ActiveLane p form f s n →
    (∀ y ∈ operands p op s n, isFinite y = true) → (op = .div → isZero (operandB p s n) = false) →
    exactValue op (valQ (operandA p s n)) (valQ (operandB p s n)) (valQ (operandC p s n)) = some x →
    (s.ctrl.getLsbD 11 = false → TinyAfterRounding p (ambient s).roundingMode x →
      ∃ t, exec (Instr.build f op p form) s = .next t ∧ t.fault = true ∧
        (s.ctrl.extractLsb' 7 3 = 7#3 →
          t.finalFlags.getLsbD 4 = true ∧ (¬ FitsPrecision p x → t.finalFlags.getLsbD 5 = true) ∧
          (form = .scalar → FitsPrecision p x → t.finalFlags.getLsbD 5 = false))) ∧
    (s.ctrl.getLsbD 10 = false → Overflows p (ambient s).roundingMode x →
      ∃ t, exec (Instr.build f op p form) s = .next t ∧ t.fault = true ∧
        (s.ctrl.extractLsb' 7 3 = 7#3 →
          t.finalFlags.getLsbD 3 = true ∧ (¬ FitsPrecision p x → t.finalFlags.getLsbD 5 = true) ∧
          (form = .scalar → FitsPrecision p x → t.finalFlags.getLsbD 5 = false)))

/-- The sign of an exact zero sum: the common sign of the terms, else 1 under RD and 0 under the other modes; no flag but
`D`. ADD, SUB and the four FMA operations; and REDUCE, whose terms `a` and `-t` differ in sign whenever `a` is a multiple of
`2^-M`, under its own rounding mode (40_numerics.md R118, 48_round_reduce_scalef.md R265). The
signs are general knowledge that the spec took in, the REDUCE clause its own inference (log entry 20). -/
def Obligations.SignOfAnExactZeroSum : Prop :=
  ∀ (p : Prec) (form : Form) (f : Fields) (s : State) (n : Nat) (op : Op), ActiveLane p form f s n →
    ((op = .add ∨ op = .sub ∨ isFma op) → (∀ y ∈ operands p op s n, isFinite y = true) →
      exactValue op (valQ (operandA p s n)) (valQ (operandB p s n)) (valQ (operandC p s n)) = some 0 →
      LaneAnswers p (Instr.build f op p form) s n
        (signedZero
          (let signs := termSigns op (operandA p s n) (operandB p s n) (operandC p s n)
           if signs.1 = signs.2 then signs.1 else decide ((ambient s).roundingMode = .rd)))
        (denormalFlag (operands p op s n))) ∧
    (isFinite (operandA p s n) = true →
      (∃ k : ℤ, valQ (operandA p s n) = (k : ℚ) / (2 : ℚ) ^ immScale f.imm8) →
      LaneAnswers p (Instr.build f .reduce p form) s n
        (signedZero (decide ((overridden f s).roundingMode = .rd))) 0#6)

/-- SQRT of a positive finite operand is its real square root correctly rounded, all four modes; `P` exactly when the
answer's square is not the operand, in every state, so that it faults where `P` is unmasked; `D` for a denormal, never `O`
or `U` (41_arith.md R147). All four forms.
Rests on the spec's own D22 (log entry 20). -/
def Obligations.SquareRootIsCorrectlyRounded : Prop :=
  ∀ (p : Prec) (form : Form) (f : Fields) (s : State) (n : Nat), ActiveLane p form f s n →
    isFinite (operandA p s n) = true → 0 < valQ (operandA p s n) →
    ∃ (v : Lane p) (fl : Flags),
      LaneAnswers p (Instr.build f .sqrt p form) s n v
        (denormalFlag [operandA p s n] ||| fl) ∧
      sign v = false ∧ RoundedTo (ambient s).roundingMode v (Real.sqrt ((valQ (operandA p s n) : ℚ) : ℝ)) ∧
      (valQ v * valQ v = valQ (operandA p s n) → fl = 0#6) ∧
      (valQ v * valQ v ≠ valQ (operandA p s n) → fl = flagP)

/-! ### Minimum, maximum, range, comparison -/

/-- MIN and MAX, all four forms: a NaN of either kind gives the second operand bit for bit with `I`; else the first operand
only when it is strictly below (above) the second, else the second, after `daz` (41_arith.md R145, R146).
Rests on the spec's own D22, D23 and D24 (log entry 20). -/
def Obligations.MinimumAndMaximum : Prop :=
  ∀ (p : Prec) (form : Form) (f : Fields) (s : State) (n : Nat), ActiveLane p form f s n →
    let a := operandA p s n
    let b := operandB p s n
    ((isNaN a = true ∨ isNaN b = true) →
      LaneAnswers p (Instr.build f .min p form) s n b flagI ∧ LaneAnswers p (Instr.build f .max p form) s n b flagI) ∧
    (isNaN a = false → isNaN b = false →
      (Below a b → LaneAnswers p (Instr.build f .min p form) s n a (denormalFlag [a, b])) ∧
      (¬ Below a b → LaneAnswers p (Instr.build f .min p form) s n b (denormalFlag [a, b])) ∧
      (Below b a → LaneAnswers p (Instr.build f .max p form) s n a (denormalFlag [a, b])) ∧
      (¬ Below b a → LaneAnswers p (Instr.build f .max p form) s n b (denormalFlag [a, b])))

/-- RANGE, all four forms: `imm8[0]` picks min or max, `imm8[1]` compares absolute values, the operand selected keeps its
own bits but for the sign, which `imm8[3:2]` sets; equal values and NaNs select the second operand; a signaling NaN raises
`I` and stops the sign override (47_range.md R250, R251, R252). Rests on the spec's own D11, D23 and D29 (log entry 20). -/
def Obligations.RangeSelection : Prop :=
  ∀ (p : Prec) (form : Form) (f : Fields) (s : State) (n : Nat), ActiveLane p form f s n →
    let a := operandA p s n
    let b := operandB p s n
    let ka := if f.imm8.getLsbD 1 then absLane a else a
    let kb := if f.imm8.getLsbD 1 then absLane b else b
    let signed (r : Lane p) : Lane p :=
      match f.imm8.getLsbD 3, f.imm8.getLsbD 2 with
      | false, false => withSign r (sign a)
      | false, true => r
      | true, false => withSign r false
      | true, true => withSign r true
    ((isSNaN a = true ∨ isSNaN b = true) → LaneAnswers p (Instr.build f .range p form) s n b flagI) ∧
    (isSNaN a = false → isSNaN b = false → (isNaN a = true ∨ isNaN b = true) →
      LaneAnswers p (Instr.build f .range p form) s n (signed b) 0#6) ∧
    (isNaN a = false → isNaN b = false → f.imm8.getLsbD 0 = false →
      (Below ka kb → LaneAnswers p (Instr.build f .range p form) s n (signed a) (denormalFlag [a, b])) ∧
      (¬ Below ka kb → LaneAnswers p (Instr.build f .range p form) s n (signed b) (denormalFlag [a, b]))) ∧
    (isNaN a = false → isNaN b = false → f.imm8.getLsbD 0 = true →
      (Below kb ka → LaneAnswers p (Instr.build f .range p form) s n (signed a) (denormalFlag [a, b])) ∧
      (¬ Below kb ka → LaneAnswers p (Instr.build f .range p form) s n (signed b) (denormalFlag [a, b])))

/-- The sign of RANGE under sign control 0 is the first operand's, for every select, whenever neither operand is a signaling
NaN (47_range.md R253). Rests on the spec's own D11 (log entry 20). -/
def Obligations.RangeKeepsTheFirstSign : Prop :=
  ∀ (p : Prec) (form : Form) (f : Fields) (s : State) (n : Nat), ActiveLane p form f s n →
    f.imm8.extractLsb' 2 2 = 0#2 → isSNaN (laneOf p s.a n) = false → isSNaN (laneOf p s.b n) = false →
    ∃ t, exec (Instr.build f .range p form) s = .next t ∧
      (t.fault = false → sign (laneOf p t.result n) = sign (laneOf p s.a n))

/-- CMP, all four forms: the predicate's value for the one relation that holds, with `I` for a NaN under a signaling
predicate or a signaling NaN under any, `D` for a denormal, and the two zeros equal (49_compare.md R280).
Rests on the spec's own D15 and D22 (log entry 20). -/
def Obligations.Comparison : Prop :=
  ∀ (p : Prec) (form : Form) (f : Fields) (s : State) (n : Nat), ActiveLane p form f s n →
    let a := operandA p s n
    let b := operandB p s n
    let q := predicateOf (f.imm8.extractLsb' 0 5)
    ((isNaN a = true ∨ isNaN b = true) →
      BitAnswers (Instr.build f .cmp p form) s n q.un (flagIf (q.signaling || isSNaN a || isSNaN b) flagI)) ∧
    (isNaN a = false → isNaN b = false →
      (Below a b → BitAnswers (Instr.build f .cmp p form) s n q.lt (denormalFlag [a, b])) ∧
      (Below b a → BitAnswers (Instr.build f .cmp p form) s n q.gt (denormalFlag [a, b])) ∧
      (¬ Below a b → ¬ Below b a → BitAnswers (Instr.build f .cmp p form) s n q.eq (denormalFlag [a, b])))

/-- The predicate table: the sixteen rows 0 to 15 as the spec lists them (less, equal, greater, unordered, signaling), and
`PRED[j ^ 16]` with the truth values of `PRED[j]` and the opposite `sig` for every index (49_compare.md R282, whose rows are
the spec's own D15; log entry 20). -/
def Obligations.PredicateTable : Prop :=
  (∀ j : BitVec 5,
    predicateOf (j ^^^ 16#5) = { predicateOf j with signaling := !(predicateOf j).signaling }) ∧
  predicateOf 0#5 = ⟨false, true, false, false, false⟩ ∧
  predicateOf 1#5 = ⟨true, false, false, false, true⟩ ∧
  predicateOf 2#5 = ⟨true, true, false, false, true⟩ ∧
  predicateOf 3#5 = ⟨false, false, false, true, false⟩ ∧
  predicateOf 4#5 = ⟨true, false, true, true, false⟩ ∧
  predicateOf 5#5 = ⟨false, true, true, true, true⟩ ∧
  predicateOf 6#5 = ⟨false, false, true, true, true⟩ ∧
  predicateOf 7#5 = ⟨true, true, true, false, false⟩ ∧
  predicateOf 8#5 = ⟨false, true, false, true, false⟩ ∧
  predicateOf 9#5 = ⟨true, false, false, true, true⟩ ∧
  predicateOf 10#5 = ⟨true, true, false, true, true⟩ ∧
  predicateOf 11#5 = ⟨false, false, false, false, false⟩ ∧
  predicateOf 12#5 = ⟨true, false, true, false, false⟩ ∧
  predicateOf 13#5 = ⟨false, true, true, false, true⟩ ∧
  predicateOf 14#5 = ⟨false, false, true, false, true⟩ ∧
  predicateOf 15#5 = ⟨true, true, true, true, false⟩

/-- CMP with a predicate whose `lt` and `gt` agree, EQ_OQ among them, is symmetric in its operands, NaNs included, value and
flags (49_compare.md R284). Rests on the spec's own D15 and D22 (log entry 20). -/
def Obligations.SymmetricComparison : Prop :=
  ∀ (p : Prec) (form : Form) (f : Fields) (s : State),
    (predicateOf (f.imm8.extractLsb' 0 5)).lt = (predicateOf (f.imm8.extractLsb' 0 5)).gt →
    SameAnswer (Instr.build f .cmp p form) (Instr.build f .cmp p form) s { s with a := s.b, b := s.a }

/-! ### Classification and fixup -/

/-- FPCLASS, all four forms, never faults, raises nothing and leaves CTRL as it is; each active lane's bit is the OR of the
eight selected tests of the value after DAZ (45_classify_fixup.md R221). Rests on the spec's own D12 and D18 (log entry 20).
That bit 5 matches a positive denormal, where R221's pseudocode and corner cases disagree, is the model's choice (log entry
22). -/
def Obligations.ClassTest : Prop :=
  ∀ (p : Prec) (form : Form) (f : Fields) (s : State),
    ∃ t, exec (Instr.build f .fpclass p form) s = .next t ∧
      t.fault = false ∧ t.finalFlags = 0#6 ∧ t.ctrlOut = s.ctrl ∧
      ∀ n, ActiveLane p form f s n →
        let v := operandA p s n
        (t.kresult.getLsbD n = true ↔
          (f.imm8.getLsbD 0 = true ∧ isQNaN v = true) ∨ (f.imm8.getLsbD 1 = true ∧ v = signedZero false) ∨
          (f.imm8.getLsbD 2 = true ∧ v = signedZero true) ∨ (f.imm8.getLsbD 3 = true ∧ v = infinity false) ∨
          (f.imm8.getLsbD 4 = true ∧ v = infinity true) ∨ (f.imm8.getLsbD 5 = true ∧ isDenorm v = true) ∨
          (f.imm8.getLsbD 6 = true ∧ (isNormal v = true ∨ isDenorm v = true) ∧ sign v = true) ∨
          (f.imm8.getLsbD 7 = true ∧ isSNaN v = true))

/-- FIXUPIMM, all four forms: the token of the source after DAZ picks a nibble of the lane's response operand, the nibble a
substitution of the response table, and the immediate's fault-mask bits for the token raise `I` and `Z` and nothing
else (45_classify_fixup.md R222 to R224; codes 2 and 15 rest on D13, log entry 20). -/
def Obligations.FixupByToken : Prop :=
  ∀ (p : Prec) (form : Form) (f : Fields) (s : State) (n : Nat), ActiveLane p form f s n →
    let t := operandA p s n
    LaneAnswers p (Instr.build f .fixupimm p form) s n
      (fixupValue (((laneOf p s.b n).toNat / 16 ^ fixupToken t) % 16) (laneOf p s.dprior n) t)
      (flagIf (fixupInvalid f.imm8 t) flagI ||| flagIf (fixupDivide f.imm8 t) flagZ)

/-- FIXUPIMM with response code 0 everywhere and no fault mask returns the prior destination for every source, raises
nothing and never faults on that account, with or without a mask operand (45_classify_fixup.md R224).
Rests on the spec's own D13 and D14 (log entry 20). -/
def Obligations.FixupPreservePath : Prop :=
  ∀ (p : Prec) (form : Form) (f : Fields) (s : State), f.imm8 = 0#8 →
    (∀ n < form.loopLanes f.vl p, (laneOf p s.b n).extractLsb' 0 32 = 0#32) →
    ∃ t, exec (Instr.build f .fixupimm p form) s = .next t ∧ t.fault = false ∧ t.finalFlags = 0#6 ∧
      ∀ n, ActiveLane p form f s n → laneOf p t.result n = laneOf p s.dprior n

/-! ### Exponent and mantissa -/

/-- GETEXP, all four forms: minus infinity for a zero, plus infinity for an infinity, no flag; for a finite non-zero operand
the integer `e` with `2^e <= |v| < 2^(e+1)`, from the smallest denormal's exponent to EMAX, as a value of the format,
exactly, `+0` for `e = 0`, with `D` for a denormal (46_getexp_getmant.md R240, R241). Rests on the spec's own D22 and D27
(log entry 20). -/
def Obligations.ExtractExponent : Prop :=
  ∀ (p : Prec) (form : Form) (f : Fields) (s : State) (n : Nat), ActiveLane p form f s n →
    let v := operandA p s n
    (isZero v = true → LaneAnswers p (Instr.build f .getexp p form) s n (infinity true) 0#6) ∧
    (isInf v = true → LaneAnswers p (Instr.build f .getexp p form) s n (infinity false) 0#6) ∧
    (isFinite v = true → isZero v = false →
      ∃ (e : ℤ) (r : Lane p), (2 : ℚ) ^ e ≤ |valQ v| ∧ |valQ v| < (2 : ℚ) ^ (e + 1) ∧
        p.emin - (p.fb : ℤ) ≤ e ∧ e ≤ p.emax ∧
        isFinite r = true ∧ isDenorm r = false ∧ valQ r = (e : ℚ) ∧ (e = 0 → r = signedZero false) ∧
        LaneAnswers p (Instr.build f .getexp p form) s n r (denormalFlag [v]))

/-- GETMANT, all four forms: one with the policy's sign for a zero or an infinity; for a finite non-zero operand
`sig * 2^e` with `1 <= sig < 2`, the value `sig` or `sig / 2` the interval control picks, with the policy's sign,
exactly, with `D` for a denormal (46_getexp_getmant.md R242 to R244). Sign policy 2 is the OPEN parameter, at whatever value
it has (log entry 9). Rests on the spec's own D9, D10, D22 and D28 (log entry 20). -/
def Obligations.ExtractMantissa : Prop :=
  ∀ (p : Prec) (form : Form) (f : Fields) (s : State) (n : Nat), ActiveLane p form f s n →
    let v := operandA p s n
    let so :=
      match f.imm8.getLsbD 3, f.imm8.getLsbD 2 with
      | false, false => sign v
      | false, true => false
      | true, false => Config.getmantSignComputed (sign v)
      | true, true => !sign v
    ((isZero v = true ∨ isInf v = true) →
      LaneAnswers p (Instr.build f .getmant p form) s n (pack so p.bias 0) 0#6) ∧
    (isFinite v = true → isZero v = false →
      ∃ (e : ℤ) (sig : ℚ) (r : Lane p), |valQ v| = sig * (2 : ℚ) ^ e ∧ 1 ≤ sig ∧ sig < 2 ∧
        isFinite r = true ∧ sign r = so ∧
        (f.imm8.extractLsb' 0 2 = 0#2 → |valQ r| = sig) ∧
        (f.imm8.extractLsb' 0 2 = 1#2 → |valQ r| = if e % 2 = 1 then sig / 2 else sig) ∧
        (f.imm8.extractLsb' 0 2 = 2#2 → |valQ r| = sig / 2) ∧
        (f.imm8.extractLsb' 0 2 = 3#2 → |valQ r| = if 3 / 2 ≤ sig then sig / 2 else sig) ∧
        LaneAnswers p (Instr.build f .getmant p form) s n r (denormalFlag [v]))

/-- The identity between the two extractors: where neither command faults, the operand's magnitude is GETMANT's (interval
and sign control 0) times two to the integer GETEXP answers (46_getexp_getmant.md R245). Rests on the spec's own D9, D27 and
D28 (log entry 20). -/
def Obligations.ExtractorIdentity : Prop :=
  ∀ (p : Prec) (form : Form) (f : Fields) (s : State) (n : Nat), ActiveLane p form f s n →
    isFinite (laneOf p s.a n) = true → isZero (laneOf p s.a n) = false →
    (s.ctrl.getLsbD 6 = false ∨ isNormal (laneOf p s.a n) = true) → f.imm8.extractLsb' 0 4 = 0#4 →
    ∃ t u, exec (Instr.build f .getexp p form) s = .next t ∧ exec (Instr.build f .getmant p form) s = .next u ∧
      (t.fault = false → u.fault = false →
        ∃ e : ℤ, valQ (laneOf p t.result n) = (e : ℚ) ∧
          |valQ (laneOf p s.a n)| = |valQ (laneOf p u.result n)| * (2 : ℚ) ^ e)

/-! ### Rounding to scale, reduction, scaling -/

/-- RNDSCALE, all four forms: infinities and zeros unchanged with no flag; a finite non-zero operand is rounded to a
multiple of `2^-M` under the mode in force, exactly representable, its sign kept; `P` exactly when the value changed and
`imm8[3] = 0`, in every state, so that it faults where `P` is unmasked; never `D` (48_round_reduce_scalef.md R261, R262).
Rests on the spec's own D8 and D30 (log entry 20). -/
def Obligations.RoundToScale : Prop :=
  ∀ (p : Prec) (form : Form) (f : Fields) (s : State) (n : Nat), ActiveLane p form f s n →
    let a := operandA p s n
    ((isInf a = true ∨ isZero a = true) → LaneAnswers p (Instr.build f .rndscale p form) s n a 0#6) ∧
    (isFinite a = true → isZero a = false →
      ∃ (v : Lane p) (fl : Flags), LaneAnswers p (Instr.build f .rndscale p form) s n v fl ∧
        isFinite v = true ∧ sign v = sign a ∧
        RoundedToMultiple (overridden f s).roundingMode (valQ v) (valQ a) (1 / (2 : ℚ) ^ immScale f.imm8) ∧
        (valQ v = valQ a → fl = 0#6) ∧
        (valQ v ≠ valQ a → fl = flagIf (!f.imm8.getLsbD 3) flagP))

/-- REDUCE is SUB of its operand and RNDSCALE's answer to the same immediate, under the rounding mode in force, in every
state, all four forms; an infinity gives `+0` with no flag. The value, for every other operand of an active lane, is that of
SUB with every exception masked, so that it can be read whatever REDUCE's own masks are. The flags, where no active lane is
an infinity (SUB would raise `I` there), are those of RNDSCALE and of SUB under the same masks together, without `P` when
`imm8[3] = 1`, narrowed and faulting by merge-back (48_round_reduce_scalef.md R264, 43_status_context.md R176). Rests on the
spec's own D8 and D30 (log entry 20). -/
def Obligations.ReduceIsSubtractionOfTheRounded : Prop :=
  ∀ (p : Prec) (form : Form) (f : Fields) (s : State),
    (∀ n, ActiveLane p form f s n → isInf (laneOf p s.a n) = true →
      LaneAnswers p (Instr.build f .reduce p form) s n (signedZero false) 0#6) ∧
    ∃ t u w v,
      exec (Instr.build f .rndscale p form) { s with ctrl := maskAll s.ctrl } = .next t ∧ t.fault = false ∧
      exec (Instr.build f .sub p form)
        { s with b := t.result, ctrl := withRc (maskAll s.ctrl) (overridden f s).roundingMode } = .next u ∧
      u.fault = false ∧
      exec (Instr.build f .sub p form)
        { s with b := t.result, ctrl := withRc s.ctrl (overridden f s).roundingMode } = .next w ∧
      exec (Instr.build f .reduce p form) s = .next v ∧
      (v.fault = false →
        ∀ n, ActiveLane p form f s n → isInf (laneOf p s.a n) = false → laneOf p v.result n = laneOf p u.result n) ∧
      ((∀ n, ActiveLane p form f s n → isInf (laneOf p s.a n) = false) →
        let raised := (t.finalFlags ||| w.finalFlags) &&& ~~~flagIf (f.imm8.getLsbD 3) flagP
        v.finalFlags = reportedFlags (ctrlMasks s.ctrl) raised ∧
          v.fault = decide (raised &&& ~~~ctrlMasks s.ctrl ≠ 0#6))

/-- Under RN the subtraction inside REDUCE is exact: the answer to a finite operand `a` is exactly `a - k * 2^-M` for an
integer `k`, at most half of `2^-M` in magnitude, `k` even at exactly half; flush-to-zero is off (48_round_reduce_scalef.md
R265). Rests on the spec's own D8 and D30 (log entry 20). -/
def Obligations.ReduceIsExactUnderNearest : Prop :=
  ∀ (p : Prec) (form : Form) (f : Fields) (s : State) (n : Nat), ActiveLane p form f s n →
    isFinite (operandA p s n) = true → (overridden f s).roundingMode = .rn → (ambient s).fuz = false →
    ∃ (v : Lane p) (fl : Flags) (k : ℤ), LaneAnswers p (Instr.build f .reduce p form) s n v fl ∧
      isFinite v = true ∧ valQ v = valQ (operandA p s n) - (k : ℚ) / (2 : ℚ) ^ immScale f.imm8 ∧
      2 * |valQ v| * (2 : ℚ) ^ immScale f.imm8 ≤ 1 ∧ (2 * |valQ v| * (2 : ℚ) ^ immScale f.imm8 = 1 → Even k)

/-- The rounding override of RNDSCALE and REDUCE is the ambient mode replaced for one command: with `imm8[2] = 0` the answer
is that of `imm8[2] = 1` under a CTRL whose RC is `imm8[1:0]`, and CTRL_OUT keeps the ambient RC (43_status_context.md R174,
48_round_reduce_scalef.md R263). Rests on the spec's own D8 (log entry 20). -/
def Obligations.OverrideActsAsAmbientMode : Prop :=
  ∀ (p : Prec) (form : Form) (f : Fields) (s : State) (op : Op), (op = .rndscale ∨ op = .reduce) →
    f.imm8.getLsbD 2 = false →
    ∃ t u, exec (Instr.build f op p form) s = .next t ∧
      exec (Instr.build { f with imm8 := f.imm8 ||| 4#8 } op p form)
        { s with ctrl := withRc s.ctrl (overridden f s).roundingMode } = .next u ∧
      t.finalFlags = u.finalFlags ∧ t.fault = u.fault ∧ (t.fault = false → t.result = u.result) ∧
      t.ctrlOut = withRc u.ctrlOut (ambient s).roundingMode

/-- SCALEF by a zero is the identity: on a normal operand in every state, with no flag, so that a scalar form never faults;
on a denormal with DAZ and flush-to-zero off, with `D`, and with `U` when underflow is unmasked (48_round_reduce_scalef.md
R268). All four forms. Rests on the spec's own D22 (log entry 20). -/
def Obligations.ScaleByZeroIsIdentity : Prop :=
  ∀ (p : Prec) (form : Form) (f : Fields) (s : State) (n : Nat), ActiveLane p form f s n →
    isZero (laneOf p s.b n) = true →
    (isNormal (laneOf p s.a n) = true →
      LaneAnswers p (Instr.build f .scalef p form) s n (laneOf p s.a n) 0#6 ∧
      (form = .scalar →
        ∃ t, exec (Instr.build f .scalef p form) s = .next t ∧ t.finalFlags = 0#6 ∧ t.fault = false ∧
          laneOf p t.result n = laneOf p s.a n)) ∧
    (isDenorm (laneOf p s.a n) = true → (ambient s).daz = false → (ambient s).fuz = false →
      LaneAnswers p (Instr.build f .scalef p form) s n (laneOf p s.a n)
        (flagD ||| flagIf (!s.ctrl.getLsbD 11) flagU))

/-! ### Invariants and programs -/

/-- INVARIANT: every step keeps a consistent response: FAULT says exactly that a reported flag is unmasked in CTRL_OUT,
every reported flag stands in CTRL_OUT, and an unmasked pre-computational flag is reported with no post-computational one
(43_status_context.md R176, R178, R179; 60_exceptions.md R310). Rests on the spec's own D6 and D32 (log entry 20). -/
def Obligations.StepKeepsResponseConsistent : Prop :=
  ∀ s t : State, ResponseConsistent s → step s = .next t → ResponseConsistent t

/-- The reset state's output ports, whose values are the model's choice (log entry 5), are a consistent response. -/
def Obligations.ResetResponseConsistent : Prop := ResponseConsistent State.reset

/-- Along any run of commands, with no write of the control register between them, CTRL only gains sticky flags: bits 15:6
never change and no flag is ever cleared (10_state.md R25). The run is one of the harness, the model's choice (log entry 19),
and CTRL takes CTRL_OUT in the command's own step, its inference (log entry 10). -/
def Obligations.ControlRegisterOnlyGains : Prop :=
  ∀ (n : Nat) (h g : Harness), commandsOnly h.program → h.run n = .next g → CtrlGrows h.core.ctrl g.core.ctrl

/-- STATE ON A FAULT: after a command that answers FAULT = 1 every named container and mask keeps its value, the flags are
merged all the same, and the run is stuck (60_exceptions.md R312, R317). That the merge is kept and the write-back is
skipped rests on the spec's own D33 (log entry 20). The run is one of the harness of the spec's own D41, the model's choice
(log entry 19), and CTRL takes CTRL_OUT in the command's own step, its inference (log entry 10). -/
def Obligations.FaultLeavesTheDestination : Prop :=
  ∀ (h : Harness) (w : CmdWord) (dst a b c k : Nat) (rest : List Action) (i : Instr) (s t : State),
    h.stopped = false → h.program = .command w dst a b c k :: rest → decode w = .ok i →
    h.present i w dst a b c k = some s → exec i s = .next t → t.fault = true →
    ∃ g, h.step = .next g ∧ g.containers = h.containers ∧ g.masks = h.masks ∧ g.core.ctrl = t.ctrlOut ∧
      g.step = .fault .stoppedByFpFault

/-- A command that answers FAULT = 0 stores its one result under the destination's name, every other container and mask
keeps its value, CTRL_OUT becomes the control register, and the run goes on (70_reset_and_hazards.md R344 item 6). The run,
its names, the other containers and masks kept and its going on are those of the harness of the spec's own D41, the model's
choice (log entry 19), and CTRL takes CTRL_OUT in the command's own step, its inference (log entry 10). -/
def Obligations.ResultIsStored : Prop :=
  ∀ (h : Harness) (w : CmdWord) (dst a b c k : Nat) (rest : List Action) (i : Instr) (s t : State),
    h.stopped = false → h.program = .command w dst a b c k :: rest → decode w = .ok i →
    h.present i w dst a b c k = some s → exec i s = .next t → t.fault = false →
    ∃ g, h.step = .next g ∧ g.core.ctrl = t.ctrlOut ∧ g.program = rest ∧ g.stopped = false ∧
      (i.op.isMask = true → lookupName dst g.masks = some t.kresult ∧ g.containers = h.containers) ∧
      (i.op.isMask = false →
        lookupName dst g.containers = some ⟨i.fields.vl, t.result⟩ ∧ g.masks = h.masks) ∧
      (∀ m, m ≠ dst →
        lookupName m g.masks = lookupName m h.masks ∧ lookupName m g.containers = lookupName m h.containers)

/-! ### Inexact results under every mask -/

/-- Suppression comes before the mask test. With `imm8[3] = 1` RNDSCALE without a signaling NaN in an active lane reports
nothing, does not fault and leaves CTRL as it is, whatever is masked, and neither RNDSCALE nor REDUCE ever reports `P`. With
`imm8[3] = 0` and `P` unmasked either operation faults on an active lane whose operand is no multiple of `2^-M`, and reports
`P` where `I` is masked, and for REDUCE, which can raise `D`, `D` too (48_round_reduce_scalef.md R262, R263, R264;
43_status_context.md R176). All four forms of both operations. Rests on the spec's own D8 and D30 (log entry 20). -/
def Obligations.SuppressionBeforeTheMaskTest : Prop :=
  ∀ (p : Prec) (form : Form) (f : Fields) (s : State),
    (f.imm8.getLsbD 3 = true →
      ((∀ n, ActiveLane p form f s n → isSNaN (laneOf p s.a n) = false) →
        ∃ t, exec (Instr.build f .rndscale p form) s = .next t ∧ t.fault = false ∧ t.finalFlags = 0#6 ∧
          t.ctrlOut = s.ctrl) ∧
      ∀ op, (op = .rndscale ∨ op = .reduce) →
        ∃ t, exec (Instr.build f op p form) s = .next t ∧ t.finalFlags.getLsbD 5 = false) ∧
    (f.imm8.getLsbD 3 = false → s.ctrl.getLsbD 12 = false →
      ∀ n, ActiveLane p form f s n → isFinite (operandA p s n) = true →
        (¬ ∃ k : ℤ, valQ (operandA p s n) = (k : ℚ) / (2 : ℚ) ^ immScale f.imm8) →
        ∀ op, (op = .rndscale ∨ op = .reduce) →
          ∃ t, exec (Instr.build f op p form) s = .next t ∧ t.fault = true ∧
            (s.ctrl.getLsbD 7 = true → (op = .reduce → s.ctrl.getLsbD 8 = true) → t.finalFlags.getLsbD 5 = true))
end

