-- ==== Sys2Proof/Laws/State.lean ====
section
/-! SUPPORT. What each state operation of the command sequence does to each field of the state, one lemma per field per
operation, so that no later proof unfolds a record update. -/

namespace Sys2Proof.Machine.State

variable (s : State)

@[simp] theorem buildContext_sc (o : Option (BitVec 8)) : (s.buildContext o).sc = (match o with
      | none => StatusContext.fromControlRegister s.ctrl
      | some imm8 => (StatusContext.fromControlRegister s.ctrl).applyRoundingOverride imm8) := rfl
@[simp] theorem buildContext_ctrl (o : Option (BitVec 8)) : (s.buildContext o).ctrl = s.ctrl := rfl
@[simp] theorem buildContext_cmd (o : Option (BitVec 8)) : (s.buildContext o).cmd = s.cmd := rfl
@[simp] theorem buildContext_a (o : Option (BitVec 8)) : (s.buildContext o).a = s.a := rfl
@[simp] theorem buildContext_b (o : Option (BitVec 8)) : (s.buildContext o).b = s.b := rfl
@[simp] theorem buildContext_c (o : Option (BitVec 8)) : (s.buildContext o).c = s.c := rfl
@[simp] theorem buildContext_dprior (o : Option (BitVec 8)) : (s.buildContext o).dprior = s.dprior := rfl
@[simp] theorem buildContext_k (o : Option (BitVec 8)) : (s.buildContext o).k = s.k := rfl
@[simp] theorem buildContext_result (o : Option (BitVec 8)) : (s.buildContext o).result = s.result := rfl
@[simp] theorem buildContext_kresult (o : Option (BitVec 8)) : (s.buildContext o).kresult = s.kresult := rfl
@[simp] theorem buildContext_ctrlOut (o : Option (BitVec 8)) : (s.buildContext o).ctrlOut = s.ctrlOut := rfl
@[simp] theorem buildContext_finalFlags (o : Option (BitVec 8)) : (s.buildContext o).finalFlags = s.finalFlags := rfl
@[simp] theorem buildContext_fault (o : Option (BitVec 8)) : (s.buildContext o).fault = s.fault := rfl
@[simp] theorem buildContext_freeCount (o : Option (BitVec 8)) : (s.buildContext o).freeCount = s.freeCount := rfl

@[simp] theorem accumulateFlags_sc (g : Nat → Flags) (n : Nat) : (s.accumulateFlags g n).sc = s.sc.accumulate g n := rfl
@[simp] theorem accumulateFlags_ctrl (g : Nat → Flags) (n : Nat) : (s.accumulateFlags g n).ctrl = s.ctrl := rfl
@[simp] theorem accumulateFlags_cmd (g : Nat → Flags) (n : Nat) : (s.accumulateFlags g n).cmd = s.cmd := rfl
@[simp] theorem accumulateFlags_a (g : Nat → Flags) (n : Nat) : (s.accumulateFlags g n).a = s.a := rfl
@[simp] theorem accumulateFlags_b (g : Nat → Flags) (n : Nat) : (s.accumulateFlags g n).b = s.b := rfl
@[simp] theorem accumulateFlags_c (g : Nat → Flags) (n : Nat) : (s.accumulateFlags g n).c = s.c := rfl
@[simp] theorem accumulateFlags_dprior (g : Nat → Flags) (n : Nat) : (s.accumulateFlags g n).dprior = s.dprior := rfl
@[simp] theorem accumulateFlags_k (g : Nat → Flags) (n : Nat) : (s.accumulateFlags g n).k = s.k := rfl
@[simp] theorem accumulateFlags_result (g : Nat → Flags) (n : Nat) : (s.accumulateFlags g n).result = s.result := rfl
@[simp] theorem accumulateFlags_kresult (g : Nat → Flags) (n : Nat) : (s.accumulateFlags g n).kresult = s.kresult := rfl
@[simp] theorem accumulateFlags_ctrlOut (g : Nat → Flags) (n : Nat) : (s.accumulateFlags g n).ctrlOut = s.ctrlOut := rfl
@[simp] theorem accumulateFlags_finalFlags (g : Nat → Flags) (n : Nat) : (s.accumulateFlags g n).finalFlags = s.finalFlags := rfl
@[simp] theorem accumulateFlags_fault (g : Nat → Flags) (n : Nat) : (s.accumulateFlags g n).fault = s.fault := rfl
@[simp] theorem accumulateFlags_freeCount (g : Nat → Flags) (n : Nat) : (s.accumulateFlags g n).freeCount = s.freeCount := rfl

@[simp] theorem mergeBack_sc : (s.mergeBack).sc = s.sc := rfl
@[simp] theorem mergeBack_ctrl : (s.mergeBack).ctrl = mergedCtrl s.ctrl s.sc.finalFlags := rfl
@[simp] theorem mergeBack_cmd : (s.mergeBack).cmd = s.cmd := rfl
@[simp] theorem mergeBack_a : (s.mergeBack).a = s.a := rfl
@[simp] theorem mergeBack_b : (s.mergeBack).b = s.b := rfl
@[simp] theorem mergeBack_c : (s.mergeBack).c = s.c := rfl
@[simp] theorem mergeBack_dprior : (s.mergeBack).dprior = s.dprior := rfl
@[simp] theorem mergeBack_k : (s.mergeBack).k = s.k := rfl
@[simp] theorem mergeBack_result : (s.mergeBack).result = s.result := rfl
@[simp] theorem mergeBack_kresult : (s.mergeBack).kresult = s.kresult := rfl
@[simp] theorem mergeBack_ctrlOut : (s.mergeBack).ctrlOut = mergedCtrl s.ctrl s.sc.finalFlags := rfl
@[simp] theorem mergeBack_finalFlags : (s.mergeBack).finalFlags = s.sc.finalFlags := rfl
@[simp] theorem mergeBack_fault : (s.mergeBack).fault = s.fault := rfl
@[simp] theorem mergeBack_freeCount : (s.mergeBack).freeCount = s.freeCount := rfl

@[simp] theorem raiseFpFault_sc : (s.raiseFpFault).sc = s.sc := rfl
@[simp] theorem raiseFpFault_ctrl : (s.raiseFpFault).ctrl = s.ctrl := rfl
@[simp] theorem raiseFpFault_cmd : (s.raiseFpFault).cmd = s.cmd := rfl
@[simp] theorem raiseFpFault_a : (s.raiseFpFault).a = s.a := rfl
@[simp] theorem raiseFpFault_b : (s.raiseFpFault).b = s.b := rfl
@[simp] theorem raiseFpFault_c : (s.raiseFpFault).c = s.c := rfl
@[simp] theorem raiseFpFault_dprior : (s.raiseFpFault).dprior = s.dprior := rfl
@[simp] theorem raiseFpFault_k : (s.raiseFpFault).k = s.k := rfl
@[simp] theorem raiseFpFault_result : (s.raiseFpFault).result = Config.freeResult s.freeCount := rfl
@[simp] theorem raiseFpFault_kresult : (s.raiseFpFault).kresult = Config.freeKresult s.freeCount := rfl
@[simp] theorem raiseFpFault_ctrlOut : (s.raiseFpFault).ctrlOut = s.ctrlOut := rfl
@[simp] theorem raiseFpFault_finalFlags : (s.raiseFpFault).finalFlags = s.finalFlags := rfl
@[simp] theorem raiseFpFault_fault : (s.raiseFpFault).fault = true := rfl
@[simp] theorem raiseFpFault_freeCount : (s.raiseFpFault).freeCount = s.freeCount := rfl

@[simp] theorem writeResult_sc (r : Container) : (s.writeResult r).sc = s.sc := rfl
@[simp] theorem writeResult_ctrl (r : Container) : (s.writeResult r).ctrl = s.ctrl := rfl
@[simp] theorem writeResult_cmd (r : Container) : (s.writeResult r).cmd = s.cmd := rfl
@[simp] theorem writeResult_a (r : Container) : (s.writeResult r).a = s.a := rfl
@[simp] theorem writeResult_b (r : Container) : (s.writeResult r).b = s.b := rfl
@[simp] theorem writeResult_c (r : Container) : (s.writeResult r).c = s.c := rfl
@[simp] theorem writeResult_dprior (r : Container) : (s.writeResult r).dprior = s.dprior := rfl
@[simp] theorem writeResult_k (r : Container) : (s.writeResult r).k = s.k := rfl
@[simp] theorem writeResult_result (r : Container) : (s.writeResult r).result = r := rfl
@[simp] theorem writeResult_kresult (r : Container) : (s.writeResult r).kresult = Config.freeKresult s.freeCount := rfl
@[simp] theorem writeResult_ctrlOut (r : Container) : (s.writeResult r).ctrlOut = s.ctrlOut := rfl
@[simp] theorem writeResult_finalFlags (r : Container) : (s.writeResult r).finalFlags = s.finalFlags := rfl
@[simp] theorem writeResult_fault (r : Container) : (s.writeResult r).fault = false := rfl
@[simp] theorem writeResult_freeCount (r : Container) : (s.writeResult r).freeCount = s.freeCount := rfl

@[simp] theorem writeKresult_sc (m : MaskWord) : (s.writeKresult m).sc = s.sc := rfl
@[simp] theorem writeKresult_ctrl (m : MaskWord) : (s.writeKresult m).ctrl = s.ctrl := rfl
@[simp] theorem writeKresult_cmd (m : MaskWord) : (s.writeKresult m).cmd = s.cmd := rfl
@[simp] theorem writeKresult_a (m : MaskWord) : (s.writeKresult m).a = s.a := rfl
@[simp] theorem writeKresult_b (m : MaskWord) : (s.writeKresult m).b = s.b := rfl
@[simp] theorem writeKresult_c (m : MaskWord) : (s.writeKresult m).c = s.c := rfl
@[simp] theorem writeKresult_dprior (m : MaskWord) : (s.writeKresult m).dprior = s.dprior := rfl
@[simp] theorem writeKresult_k (m : MaskWord) : (s.writeKresult m).k = s.k := rfl
@[simp] theorem writeKresult_result (m : MaskWord) : (s.writeKresult m).result = Config.freeResult s.freeCount := rfl
@[simp] theorem writeKresult_kresult (m : MaskWord) : (s.writeKresult m).kresult = m := rfl
@[simp] theorem writeKresult_ctrlOut (m : MaskWord) : (s.writeKresult m).ctrlOut = s.ctrlOut := rfl
@[simp] theorem writeKresult_finalFlags (m : MaskWord) : (s.writeKresult m).finalFlags = s.finalFlags := rfl
@[simp] theorem writeKresult_fault (m : MaskWord) : (s.writeKresult m).fault = false := rfl
@[simp] theorem writeKresult_freeCount (m : MaskWord) : (s.writeKresult m).freeCount = s.freeCount := rfl

@[simp] theorem finish_sc : (s.finish).sc = StatusContext.ofBits (Config.freeContext s.freeCount) := rfl
@[simp] theorem finish_ctrl : (s.finish).ctrl = s.ctrl := rfl
@[simp] theorem finish_cmd : (s.finish).cmd = none := rfl
@[simp] theorem finish_a : (s.finish).a = s.a := rfl
@[simp] theorem finish_b : (s.finish).b = s.b := rfl
@[simp] theorem finish_c : (s.finish).c = s.c := rfl
@[simp] theorem finish_dprior : (s.finish).dprior = s.dprior := rfl
@[simp] theorem finish_k : (s.finish).k = s.k := rfl
@[simp] theorem finish_result : (s.finish).result = s.result := rfl
@[simp] theorem finish_kresult : (s.finish).kresult = s.kresult := rfl
@[simp] theorem finish_ctrlOut : (s.finish).ctrlOut = s.ctrlOut := rfl
@[simp] theorem finish_finalFlags : (s.finish).finalFlags = s.finalFlags := rfl
@[simp] theorem finish_fault : (s.finish).fault = s.fault := rfl
@[simp] theorem finish_freeCount : (s.finish).freeCount = s.freeCount + 1 := rfl

end Sys2Proof.Machine.State
end

