-- ==== Sys2Proof/Laws/Ops.lean ====
section
/-! SUPPORT. One lemma for each shared operation of the command sequence that says all it can do: packing lanes and bits,
accumulating flags, responding, and the two command runners. Later proofs cite these and unfold none of the operations. -/

namespace Sys2Proof.Machine

variable {p : Prec}

/-- Element counts fit the container: sixteen lanes of 32 bits, eight of 64. -/
theorem width_mul_lanes_le (vl : VecLen) (p : Prec) : p.width * vl.lanes p ≤ 512 := by
  cases vl <;> cases p <;> decide

/-- The lanes of either form lie inside the container. -/
theorem width_mul_loopLanes_le (form : Form) (vl : VecLen) (p : Prec) : p.width * form.loopLanes vl p ≤ 512 := by
  cases form <;> cases vl <;> cases p <;> decide

/-- A command visits at most sixteen lanes. -/
theorem loopLanes_le (form : Form) (vl : VecLen) (p : Prec) : form.loopLanes vl p ≤ 16 := by
  cases form <;> cases vl <;> cases p <;> decide

theorem width_pos (p : Prec) : 0 < p.width := by cases p <;> decide

/-- A packed container has no bit at or above its last lane. -/
theorem packLanes_getLsbD_of_ge (v : Nat → Lane p) (n j : Nat) (h : p.width * n ≤ j) :
    (packLanes v n).getLsbD j = false := by
  induction n with
  | zero => simp [packLanes]
  | succ n ih =>
    have h1 : p.width * n + p.width ≤ j := by simpa [Nat.mul_succ] using h
    simp only [packLanes, BitVec.getLsbD_or, ih (by omega), BitVec.getLsbD_shiftLeft, BitVec.getLsbD_setWidth,
      Bool.false_or]
    rw [BitVec.getLsbD_of_ge (v n) _ (by omega)]
    simp

/-- Lane `i` of a packed container is the value put there. -/
theorem laneOf_packLanes (v : Nat → Lane p) (n i : Nat) (hn : p.width * n ≤ 512) (hi : i < n) :
    laneOf p (packLanes v n) i = v i := by
  induction n with
  | zero => omega
  | succ n ih =>
    have hw := width_pos p
    have hs : p.width * n + p.width ≤ 512 := by simpa [Nat.mul_succ] using hn
    apply BitVec.eq_of_getLsbD_eq
    intro j hj
    simp only [laneOf, BitVec.getLsbD_extractLsb', hj, decide_true, Bool.true_and, packLanes, BitVec.getLsbD_or,
      BitVec.getLsbD_shiftLeft, BitVec.getLsbD_setWidth]
    rcases Nat.lt_succ_iff_lt_or_eq.mp hi with h | rfl
    · have hm : p.width * i + p.width ≤ p.width * n := by
        rw [← Nat.mul_succ]; exact Nat.mul_le_mul_left _ h
      have := congrArg (fun x => x.getLsbD j) (ih (by omega) h)
      simp only [laneOf, BitVec.getLsbD_extractLsb', hj, decide_true, Bool.true_and] at this
      rw [this]
      have : p.width * i + j < p.width * n := by omega
      simp [this]
    · rw [packLanes_getLsbD_of_ge v i _ (by omega)]
      have h1 : p.width * i + j < 512 := by omega
      have h2 : ¬ p.width * i + j < p.width * i := by omega
      have h3 : p.width * i + j - p.width * i = j := by omega
      have h4 : j < 512 := by omega
      simp [h1, h2, h3, h4]

/-- A lane above those packed is zero. -/
theorem laneOf_packLanes_of_ge (v : Nat → Lane p) (n i : Nat) (hi : n ≤ i) :
    laneOf p (packLanes v n) i = 0#p.width := by
  apply BitVec.eq_of_getLsbD_eq
  intro j hj
  have : p.width * n ≤ p.width * i + j := Nat.le_trans (Nat.mul_le_mul_left _ hi) (by omega)
  simp [laneOf, packLanes_getLsbD_of_ge v n _ this]

/-- Bit `i` of a packed mask is the bit put there, and 0 above them. -/
theorem packBits_getLsbD (b : Nat → Bool) (n i : Nat) (hi : i < 32) :
    (packBits b n).getLsbD i = (decide (i < n) && b i) := by
  induction n with
  | zero => simp [packBits]
  | succ n ih =>
    simp only [packBits, BitVec.getLsbD_or, ih, BitVec.getLsbD_shiftLeft, BitVec.getLsbD_setWidth, hi, decide_true,
      Bool.true_and]
    by_cases h : i < n
    · have h1 : i < n + 1 := by omega
      simp [h, h1]
    · by_cases he : i = n
      · subst he
        cases b i <;> simp
      · have h1 : ¬ i < n + 1 := by omega
        have h3 : 0 < i - n := by omega
        have h4 : 1 ≤ i - n := by omega
        rw [BitVec.getLsbD_of_ge _ (i - n) h4]
        simp [h, h1]

/-- The accumulator changes the sticky flags of the context and nothing else. -/
theorem accumulate_eq (sc : StatusContext) (g : Nat → Flags) (n : Nat) :
    sc.accumulate g n = { sc with stickyFlags := (sc.accumulate g n).stickyFlags } := by
  induction n with
  | zero => rfl
  | succ n ih => simp only [StatusContext.accumulate, StatusContext.flag]; rw [ih]

/-- A sticky flag is set after the lanes exactly when it was before or some lane raised it. -/
theorem accumulate_stickyFlags_getLsbD (sc : StatusContext) (g : Nat → Flags) (n j : Nat) :
    (sc.accumulate g n).stickyFlags.getLsbD j = true ↔
      sc.stickyFlags.getLsbD j = true ∨ ∃ i < n, (g i).getLsbD j = true := by
  induction n with
  | zero => simp [StatusContext.accumulate]
  | succ n ih =>
    simp only [StatusContext.accumulate, StatusContext.flag, BitVec.getLsbD_or, Bool.or_eq_true, ih]
    constructor
    · rintro ((h | ⟨i, hi, h⟩) | h)
      · exact .inl h
      · exact .inr ⟨i, by omega, h⟩
      · exact .inr ⟨n, by omega, h⟩
    · rintro (h | ⟨i, hi, h⟩)
      · exact .inl (.inl h)
      · rcases Nat.lt_succ_iff_lt_or_eq.mp hi with h' | rfl
        · exact .inl (.inr ⟨i, h', h⟩)
        · exact .inr h

/-- The context a container or mask command ends its lane loop with. -/
def loopContext (s : State) (override : Option (BitVec 8)) (f : Fields) (n : Nat)
    (flagsOf : StatusContext → Nat → Flags) : StatusContext :=
  let sc := (s.buildContext override).sc
  sc.accumulate (fun i => activeFlags f s.k i (flagsOf sc i)) n

/-- All a command with a container result does. -/
theorem runContainer_spec (p : Prec) (form : Form) (override : Option (BitVec 8)) (op : LaneFn p) (f : Fields)
    (s : State) :
    ∃ t, runContainer p form override op f s = .next t ∧
      (let sc := (s.buildContext override).sc
       let m := loopContext s override f (form.loopLanes f.vl p) fun sc i => (op sc f.imm8 (s.laneArgs p i)).flags
       t.finalFlags = m.finalFlags ∧ t.fault = m.shouldFault ∧ t.ctrlOut = mergedCtrl s.ctrl m.finalFlags ∧
       t.ctrl = t.ctrlOut ∧ t.cmd = none ∧
       (t.fault = false →
         t.result = packLanes (fun i => blend (laneOf p s.dprior i) (op sc f.imm8 (s.laneArgs p i)).val
           (laneActive f s.k i) (zeroPolicy f)) (form.loopLanes f.vl p)) ∧
       t.a = s.a ∧ t.b = s.b ∧ t.c = s.c ∧ t.dprior = s.dprior ∧ t.k = s.k) := by
  refine ⟨_, rfl, ?_⟩
  simp only [State.respond, loopContext]
  split <;> rename_i h
  · refine ⟨rfl, ?_, rfl, rfl, rfl, ?_, rfl, rfl, rfl, rfl, rfl⟩
    · exact h.symm
    · intro h'; exact absurd h' (by simp)
  · refine ⟨rfl, ?_, rfl, rfl, rfl, fun _ => rfl, rfl, rfl, rfl, rfl, rfl⟩
    exact (Bool.eq_false_of_not_eq_true h).symm

/-- All a command with a mask result does. -/
theorem runMask_spec (p : Prec) (form : Form) (op : BitFn p) (f : Fields) (s : State) :
    ∃ t, runMask p form op f s = .next t ∧
      (let sc := (s.buildContext none).sc
       let m := loopContext s none f (form.loopLanes f.vl p) fun sc i => (op sc f.imm8 (s.laneArgs p i)).flags
       t.finalFlags = m.finalFlags ∧ t.fault = m.shouldFault ∧ t.ctrlOut = mergedCtrl s.ctrl m.finalFlags ∧
       t.ctrl = t.ctrlOut ∧ t.cmd = none ∧
       (t.fault = false →
         t.kresult = packBits (fun i => laneActive f s.k i && (op sc f.imm8 (s.laneArgs p i)).bit)
           (form.loopLanes f.vl p)) ∧
       t.a = s.a ∧ t.b = s.b ∧ t.c = s.c ∧ t.dprior = s.dprior ∧ t.k = s.k) := by
  refine ⟨_, rfl, ?_⟩
  simp only [State.respond, loopContext]
  split <;> rename_i h
  · refine ⟨rfl, ?_, rfl, rfl, rfl, ?_, rfl, rfl, rfl, rfl, rfl⟩
    · exact h.symm
    · intro h'; exact absurd h' (by simp)
  · refine ⟨rfl, ?_, rfl, rfl, rfl, fun _ => rfl, rfl, rfl, rfl, rfl, rfl⟩
    exact (Bool.eq_false_of_not_eq_true h).symm

end Sys2Proof.Machine
end

