-- ==== Sys2Proof/Laws/Dispatch.lean ====
section
/-! SUPPORT. Every arm of `exec` as one of the two command runners over `laneOp`, so that a proof about all eighty
instructions has two cases and not eighty. -/

namespace Sys2Proof.Machine

/-- The override an operation takes from the immediate byte (43_status_context.md R175). -/
def overrideOf (op : Op) (f : Fields) : Option (BitVec 8) :=
  if op = .reduce ∨ op = .rndscale then some f.imm8 else none

@[simp] theorem build_op (f : Fields) (op : Op) (p : Prec) (form : Form) : (Instr.build f op p form).op = op := by
  cases op <;> cases p <;> cases form <;> rfl
@[simp] theorem build_prec (f : Fields) (op : Op) (p : Prec) (form : Form) : (Instr.build f op p form).prec = p := by
  cases op <;> cases p <;> cases form <;> rfl
@[simp] theorem build_form (f : Fields) (op : Op) (p : Prec) (form : Form) : (Instr.build f op p form).form = form := by
  cases op <;> cases p <;> cases form <;> rfl
@[simp] theorem build_fields (f : Fields) (op : Op) (p : Prec) (form : Form) : (Instr.build f op p form).fields = f := by
  cases op <;> cases p <;> cases form <;> rfl

/-- Every instruction is built from its own four parts. -/
theorem build_parts (i : Instr) : Instr.build i.fields i.op i.prec i.form = i := by cases i <;> rfl

/-- The context the runners build is the command's. -/
theorem buildContext_overrideOf (s : State) (op : Op) (f : Fields) :
    (s.buildContext (overrideOf op f)).sc = commandContext op f s := by
  cases op <;> rfl

/-- An instruction with a container result, as the runner of its lane function. -/
theorem exec_build_container (f : Fields) (op : Op) (p : Prec) (form : Form) (s : State) (h : op.isMask = false) :
    exec (Instr.build f op p form) s =
      runContainer p form (overrideOf op f) (fun sc imm8 x => ⟨(laneOp op sc imm8 x).val, (laneOp op sc imm8 x).flags⟩)
        f s := by
  cases op <;> first | (exact absurd h (by decide)) | (cases p <;> cases form <;> rfl)

/-- An instruction with a mask result, as the runner of its lane function. -/
theorem exec_build_mask (f : Fields) (op : Op) (p : Prec) (form : Form) (s : State) (h : op.isMask = true) :
    exec (Instr.build f op p form) s =
      runMask p form (fun sc imm8 x => ⟨(laneOp op sc imm8 x).bit, (laneOp op sc imm8 x).flags⟩) f s := by
  cases op <;> first | (exact absurd h (by decide)) | (cases p <;> cases form <;> rfl)

end Sys2Proof.Machine
end

