-- ==== Sys2Proof/Laws/Answers.lean ====
section
/-! SUPPORT. What an active lane answers, once for all eighty instructions: `LaneAnswers` and `BitAnswers` hold of the value and
the flags of `lane_op`. A statement about a lane then follows from a fact about the lane function alone. -/

namespace Sys2Proof.Machine

variable {p : Prec}

/-- Flags within others that miss a mask miss it too. -/
theorem and_eq_zero_of_within {a f m : Flags} (h : a &&& f = a) (hf : f &&& m = 0#6) : a &&& m = 0#6 := by
  rw [← h, BitVec.and_assoc, hf]; simp

/-- Every flag is reported or, under an unmasked one of `I`, `D` and `Z`, every one of those three. -/
theorem finalFlags_cases (sc : StatusContext) :
    (sc.reported &&& ~~~sc.exceptionMasks &&& preComputational ≠ 0#6 ∧
      sc.finalFlags = sc.reported &&& preComputational) ∨
    (sc.reported &&& ~~~sc.exceptionMasks &&& preComputational = 0#6 ∧ sc.finalFlags = sc.reported) := by
  unfold StatusContext.finalFlags
  split <;> rename_i h
  · exact .inl ⟨h, rfl⟩
  · exact .inr ⟨not_not.1 h, rfl⟩

/-- A command faults exactly when an unsuppressed flag is unmasked: what is dropped from the report does not matter. -/
theorem shouldFault_eq (sc : StatusContext) : sc.shouldFault = decide (sc.reported &&& ~~~sc.exceptionMasks ≠ 0#6) := by
  unfold StatusContext.shouldFault
  congr 1
  rcases finalFlags_cases sc with ⟨h, e⟩ | ⟨-, e⟩ <;> rw [e]
  have hr : sc.reported &&& preComputational &&& ~~~sc.exceptionMasks =
      sc.reported &&& ~~~sc.exceptionMasks &&& preComputational := by ac_rfl
  rw [hr]
  refine propext ⟨fun _ h0 => h (by rw [h0]; simp), fun _ => h⟩

/-- What `reportedFlags` says of the flags of a lone lane is what merge-back reports. -/
theorem finalFlags_eq_reportedFlags (sc : StatusContext) :
    sc.finalFlags = reportedFlags sc.exceptionMasks sc.reported := by
  unfold reportedFlags
  rcases finalFlags_cases sc with ⟨h, e⟩ | ⟨h, e⟩
  · rw [if_neg h, e]
  · rw [if_pos h, e]

/-- A response with the flags and the fault of a context shows any lane's flags among the context's unsuppressed ones; for a
scalar form those must be all. -/
theorem reports_of_context {form : Form} {s t : State} {fl : Flags} (sc : StatusContext)
    (hm : sc.exceptionMasks = ctrlMasks s.ctrl) (ht : t.finalFlags = sc.finalFlags) (hf : t.fault = sc.shouldFault)
    (hin : fl &&& sc.reported = fl) (hs : form = .scalar → sc.reported = fl) : Reports form s t fl := by
  unfold Reports
  rw [ht, hf, shouldFault_eq, ← hm]
  refine ⟨fun h => ?_, ?_, fun h => ?_, fun h => ?_, fun h => ?_⟩
  · exact decide_eq_true fun h0 => h (and_eq_zero_of_within hin h0)
  · rcases finalFlags_cases sc with ⟨-, e⟩ | ⟨-, e⟩ <;> rw [e]
    · have : fl &&& preComputational &&& (sc.reported &&& preComputational) =
          fl &&& sc.reported &&& (preComputational &&& preComputational) := by ac_rfl
      rw [this, hin, BitVec.and_self]
    · have : fl &&& preComputational &&& sc.reported = fl &&& sc.reported &&& preComputational := by ac_rfl
      rw [this, hin]
  · rcases finalFlags_cases sc with ⟨h', e⟩ | ⟨-, e⟩
    · refine absurd ?_ h'
      rw [e] at h
      have : sc.reported &&& preComputational &&& ~~~sc.exceptionMasks &&& preComputational =
          sc.reported &&& ~~~sc.exceptionMasks &&& (preComputational &&& preComputational) := by ac_rfl
      rwa [this, BitVec.and_self] at h
    · rw [e, hin]
  · have h3 : ~~~sc.exceptionMasks = 0#6 := by rw [hm, h]; rfl
    simp [h3]
  · rw [finalFlags_eq_reportedFlags, hs h]
    exact ⟨rfl, rfl⟩

/-- The context a command ends its lane loop with: the masks and the suppressed flags of the context it was built with, and
the flags of its active lanes. -/
theorem loopContext_reported (s : State) (override : Option (BitVec 8)) (f : Fields) (n : Nat)
    (g : StatusContext → Nat → Flags) :
    (loopContext s override f n g).exceptionMasks = ctrlMasks s.ctrl ∧
    ∀ j < 6, ((loopContext s override f n g).reported.getLsbD j = true ↔
      (s.buildContext override).sc.suppressFlags.getLsbD j = false ∧
      ∃ i < n, laneActive f s.k i = true ∧ (g (s.buildContext override).sc i).getLsbD j = true) := by
  have hsc : (s.buildContext override).sc.stickyFlags = 0#6 ∧
      (s.buildContext override).sc.exceptionMasks = ctrlMasks s.ctrl := by
    cases override <;> exact ⟨rfl, rfl⟩
  have hacc := accumulate_eq (s.buildContext override).sc
    (fun i => activeFlags f s.k i (g (s.buildContext override).sc i)) n
  constructor
  · unfold loopContext
    rw [hacc]; exact hsc.2
  · intro j hj
    have hst := accumulate_stickyFlags_getLsbD (s.buildContext override).sc
      (fun i => activeFlags f s.k i (g (s.buildContext override).sc i)) n j
    have hr : reportable.getLsbD j = true := by
      unfold reportable; interval_cases j <;> rfl
    have hsup : (loopContext s override f n g).suppressFlags = (s.buildContext override).sc.suppressFlags := by
      unfold loopContext; rw [hacc]
    unfold StatusContext.reported
    simp only [BitVec.getLsbD_and, hr, hsup, BitVec.getLsbD_not, hj, decide_true, Bool.true_and, Bool.and_true,
      Bool.and_eq_true, Bool.not_eq_true']
    have hst' : (loopContext s override f n g).stickyFlags.getLsbD j = true ↔
        ∃ i < n, laneActive f s.k i = true ∧ (g (s.buildContext override).sc i).getLsbD j = true := by
      unfold loopContext
      rw [hst, hsc.1]
      simp only [BitVec.getLsbD_zero, Bool.false_eq_true, false_or, activeFlags]
      refine exists_congr fun i => and_congr_right fun _ => ?_
      cases laneActive f s.k i <;> simp
    rw [hst', and_comm]

/-- The context after the loop holds the unsuppressed flags of every active lane, and of the one lane of a scalar form no
others. -/
theorem loopContext_reports {form : Form} {f : Fields} {s : State} {n : Nat} {override : Option (BitVec 8)}
    (g : StatusContext → Nat → Flags) (ha : ActiveLane p form f s n) :
    let m := loopContext s override f (form.loopLanes f.vl p) g
    let fl := g (s.buildContext override).sc n &&& ~~~(s.buildContext override).sc.suppressFlags
    fl &&& m.reported = fl ∧ (form = .scalar → m.reported = fl) := by
  obtain ⟨-, hr⟩ := loopContext_reported s override f (form.loopLanes f.vl p) g
  constructor
  · apply BitVec.eq_of_getLsbD_eq
    intro j hj
    have h := hr j hj
    simp only [BitVec.getLsbD_and, BitVec.getLsbD_not, hj, decide_true, Bool.true_and]
    rw [Bool.and_eq_left_iff_imp]
    intro h2
    simp only [Bool.and_eq_true, Bool.not_eq_true'] at h2
    exact h.2 ⟨h2.2, n, ha.1, ha.2, h2.1⟩
  · rintro rfl
    apply BitVec.eq_of_getLsbD_eq
    intro j hj
    have hn : n = 0 := Nat.lt_one_iff.1 ha.1
    subst hn
    simp only [BitVec.getLsbD_and, BitVec.getLsbD_not, hj, decide_true, Bool.true_and]
    rw [Bool.eq_iff_iff, hr j hj]
    simp only [Bool.and_eq_true, Bool.not_eq_true']
    constructor
    · rintro ⟨h1, i, hi, -, h2⟩
      obtain rfl : i = 0 := Nat.lt_one_iff.1 hi
      exact ⟨h2, h1⟩
    · rintro ⟨h2, h1⟩
      exact ⟨h1, 0, ha.1, ha.2, h2⟩

/-- An active lane of a container result answers the value of the lane function and reports its flags, suppressed ones
apart. -/
theorem laneAnswers_build (op : Op) (form : Form) (f : Fields) (s : State) (n : Nat) (ho : op.isMask = false)
    (ha : ActiveLane p form f s n) :
    LaneAnswers p (Instr.build f op p form) s n (laneResult p op f s n).val
      ((laneResult p op f s n).flags &&& ~~~(commandContext op f s).suppressFlags) := by
  obtain ⟨t, ht, h⟩ := runContainer_spec p form (overrideOf op f)
    (fun sc imm8 x => ⟨(laneOp op sc imm8 x).val, (laneOp op sc imm8 x).flags⟩) f s
  obtain ⟨hff, hfa, -, -, -, hres, -⟩ := h
  refine ⟨t, (exec_build_container f op p form s ho).trans ht, fun h0 => ?_, ?_⟩
  · rw [hres h0, laneOf_packLanes _ _ _ (width_mul_loopLanes_le form f.vl p) ha.1, buildContext_overrideOf]
    simp only [blend, ha.2, if_true]
    rfl
  · have hc := loopContext_reports (p := p) (override := overrideOf op f)
      (fun sc i => (laneOp op sc f.imm8 (s.laneArgs p i)).flags) ha
    rw [build_form]
    refine reports_of_context _ (loopContext_reported _ _ _ _ _).1 hff hfa ?_ ?_
    · simpa only [buildContext_overrideOf, laneResult] using hc.1
    · simpa only [buildContext_overrideOf, laneResult] using hc.2

/-- The same for a bit of a mask result. -/
theorem bitAnswers_build (op : Op) (form : Form) (f : Fields) (s : State) (n : Nat) (ho : op.isMask = true)
    (ha : ActiveLane p form f s n) :
    BitAnswers (Instr.build f op p form) s n (laneResult p op f s n).bit (laneResult p op f s n).flags := by
  obtain ⟨t, ht, h⟩ := runMask_spec p form
    (fun sc imm8 x => ⟨(laneOp op sc imm8 x).bit, (laneOp op sc imm8 x).flags⟩) f s
  obtain ⟨hff, hfa, -, -, -, hres, -⟩ := h
  have hctx : commandContext op f s = (s.buildContext none).sc := by
    cases op <;> first | (exact absurd ho (by decide)) | rfl
  have h32 : n < 32 := lt_of_lt_of_le ha.1 ((loopLanes_le form f.vl p).trans (by decide))
  refine ⟨t, (exec_build_mask f op p form s ho).trans ht, fun h0 => ?_, ?_⟩
  · rw [hres h0, packBits_getLsbD _ _ _ h32]
    simp only [ha.1, decide_true, ha.2, Bool.true_and, laneResult, hctx]
  · have hc := loopContext_reports (p := p) (override := none)
      (fun sc i => (laneOp op sc f.imm8 (s.laneArgs p i)).flags) ha
    have hsup : (s.buildContext none).sc.suppressFlags = 0#6 := rfl
    rw [build_form]
    refine reports_of_context _ (loopContext_reported _ _ _ _ _).1 hff hfa ?_ ?_
    · simpa only [hsup, laneResult, hctx, BitVec.not_zero, BitVec.and_allOnes] using hc.1
    · simpa only [hsup, laneResult, hctx, BitVec.not_zero, BitVec.and_allOnes] using hc.2

/-- Masking every exception changes nothing else of the context a command starts with. -/
theorem fromControlRegister_maskAll (c : CtrlWord) :
    StatusContext.fromControlRegister (maskAll c) =
      { StatusContext.fromControlRegister c with exceptionMasks := 0x3F#6 } := by
  have h15 : (maskAll c).getLsbD 15 = (c.getLsbD 15 && c.getLsbD 11) := by
    simp only [maskAll, BitVec.getLsbD_append]; simp
  have h11 : (maskAll c).getLsbD 11 = true := by
    simp only [maskAll, BitVec.getLsbD_append]; simp
  have h6 : (maskAll c).getLsbD 6 = c.getLsbD 6 := by
    simp only [maskAll, BitVec.getLsbD_append]; simp
  have hm : (maskAll c).extractLsb' 7 6 = 0x3F#6 := by
    apply BitVec.eq_of_getLsbD_eq
    intro j hj
    simp only [BitVec.getLsbD_extractLsb', maskAll, BitVec.getLsbD_append]
    interval_cases j <;> simp
  have hr : (maskAll c).extractLsb' 13 2 = c.extractLsb' 13 2 := by
    apply BitVec.eq_of_getLsbD_eq
    intro j hj
    simp only [BitVec.getLsbD_extractLsb', maskAll, BitVec.getLsbD_append]
    interval_cases j <;> simp
  simp only [StatusContext.fromControlRegister, ctrlRc, ctrlMasks, ctrlDaz, ctrlFz, ctrlUm, h15, h11, h6, hm, hr,
    Bool.and_true]

/-- Another rounding mode in the control register changes nothing else of the context a command starts with. -/
theorem fromControlRegister_withRc (c : CtrlWord) (rm : RoundingMode) :
    StatusContext.fromControlRegister (withRc c rm) =
      { StatusContext.fromControlRegister c with roundingMode := rm } := by
  have h15 : (withRc c rm).getLsbD 15 = c.getLsbD 15 := by
    simp only [withRc, BitVec.getLsbD_append]; simp
  have h11 : (withRc c rm).getLsbD 11 = c.getLsbD 11 := by
    simp only [withRc, BitVec.getLsbD_append]; simp
  have h6 : (withRc c rm).getLsbD 6 = c.getLsbD 6 := by
    simp only [withRc, BitVec.getLsbD_append]; simp
  have hm : (withRc c rm).extractLsb' 7 6 = c.extractLsb' 7 6 := by
    apply BitVec.eq_of_getLsbD_eq
    intro j hj
    simp only [BitVec.getLsbD_extractLsb', withRc, BitVec.getLsbD_append]
    interval_cases j <;> simp
  have hr : (withRc c rm).extractLsb' 13 2 = rm.code := by
    apply BitVec.eq_of_getLsbD_eq
    intro j hj
    simp only [BitVec.getLsbD_extractLsb', withRc, BitVec.getLsbD_append]
    interval_cases j <;> simp
  have hc : RoundingMode.ofCode rm.code = rm := by cases rm <;> rfl
  simp only [StatusContext.fromControlRegister, ctrlRc, ctrlMasks, ctrlDaz, ctrlFz, ctrlUm, h15, h11, h6, hm, hr, hc]

end Sys2Proof.Machine
end

