-- ==== Sys2Proof/Laws/Numerics.lean ====
section
/-! SUPPORT. What the numeric primitives are, in the terms claims use: a lane function's output under `raise`, the exact value
of a lane as a rational, the order of two lanes, the scaled quotient's floor and order, the integer square root, and the four
ways `round_pack` can end. -/

namespace Sys2Proof.Machine

variable {p : Prec}

@[simp] theorem raise_val (r : LaneOut p) (f : Flags) : (r.raise f).val = r.val := rfl
@[simp] theorem raise_flags (r : LaneOut p) (f : Flags) : (r.raise f).flags = r.flags ||| f := rfl
@[simp] theorem quietly_val (v : Lane p) : (quietly v).val = v := rfl
@[simp] theorem quietly_flags (v : Lane p) : (quietly v).flags = 0#6 := rfl
@[simp] theorem invalid_val : (invalid : LaneOut p).val = dnan := rfl
@[simp] theorem invalid_flags : (invalid : LaneOut p).flags = flagI := rfl
@[simp] theorem flagIf_true (f : Flags) : flagIf true f = f := rfl
@[simp] theorem flagIf_false (f : Flags) : flagIf false f = 0#6 := rfl

/-- A NaN is untouched by `daz`. -/
theorem daz_of_isNaN (sc : StatusContext) (v : Lane p) (h : isNaN v = true) : daz sc v = v := by
  have h0 : isDenorm v = false := by
    simp only [isNaN, isDenorm, Bool.and_eq_true, beq_iff_eq, bne_iff_ne] at h ⊢
    have : expf v ≠ 0 := by rw [h.1]; cases p <;> decide
    simp [this]
  simp [daz, flushDenormal, h0]

/-- The magnitude of 40_numerics.md R105 is the model's whole number of units. -/
theorem magQ_eq_magUnits (v : Lane p) : magQ v = (magUnits v : ℚ) * (2 : ℚ) ^ p.unitExp := by
  unfold magQ magUnits
  by_cases h : expf v = 0
  · simp [h, Prec.unitExp]
  · have h1 : 1 ≤ expf v := Nat.one_le_iff_ne_zero.mpr h
    simp only [h, if_false]
    push_cast
    rw [mul_assoc, ← zpow_natCast (2 : ℚ) (expf v - 1), ← zpow_add₀ (by norm_num : (2 : ℚ) ≠ 0)]
    congr 2
    simp only [Prec.unitExp, Prec.emin]
    omega

/-- The value of 40_numerics.md R105 is the model's integer number of units. -/
theorem valQ_eq_valUnits (v : Lane p) : valQ v = (valUnits v : ℚ) * (2 : ℚ) ^ p.unitExp := by
  unfold valQ valUnits signed
  split <;> simp [magQ_eq_magUnits]

/-- Values are ordered as their units are. -/
theorem valQ_lt_iff (a b : Lane p) : valQ a < valQ b ↔ valUnits a < valUnits b := by
  rw [valQ_eq_valUnits, valQ_eq_valUnits, mul_lt_mul_iff_left₀ (by positivity)]
  exact_mod_cast Iff.rfl

/-- A lane that is neither a NaN nor an infinity is finite, and an infinity is not. -/
theorem isFinite_eq_not_isInf (v : Lane p) (h : isNaN v = false) : isFinite v = !isInf v := by
  unfold isNaN at h
  unfold isInf isFinite
  by_cases he : expf v = p.eall <;> by_cases hf : frac v = 0 <;> simp_all [bne]

/-- `order` answers LT exactly for the strictly lesser of two lanes that are not NaN (40_numerics.md R115). -/
theorem order_eq_lt_iff (a b : Lane p) (ha : isNaN a = false) (hb : isNaN b = false) :
    order a b = .lt ↔ Below a b := by
  unfold Below
  rw [isFinite_eq_not_isInf a ha, isFinite_eq_not_isInf b hb, valQ_lt_iff]
  simp only [order]
  generalize isInf a = ia
  generalize isInf b = ib
  generalize sign a = sa
  generalize sign b = sb
  cases ia <;> cases ib <;> cases sa <;> cases sb <;> simp [Ordering.then, compare, compareOfLessAndEq]

/-- The order of two lanes swapped. -/
theorem order_swap (a b : Lane p) : order b a = (order a b).swap := by
  simp only [order, Ordering.swap_then, Bool.or_comm (isInf b) (isInf a)]
  congr 1
  · rw [Int.compare_swap]
  · split
    · rfl
    · rw [Int.compare_swap]

/-- `order` answers GT exactly for the strictly greater of two lanes that are not NaN (40_numerics.md R115). -/
theorem order_eq_gt_iff (a b : Lane p) (ha : isNaN a = false) (hb : isNaN b = false) :
    order a b = .gt ↔ Below b a := by
  rw [← order_eq_lt_iff b a hb ha, order_swap a b]
  cases order a b <;> simp

/-- The floor of a scaled quotient. -/
theorem floorScaled_eq_floor (n d : Nat) (z : Int) :
    (floorScaled n d z : ℤ) = ⌊(n : ℚ) / (d : ℚ) * (2 : ℚ) ^ z⌋ := by
  unfold floorScaled
  by_cases h : 0 ≤ z
  · obtain ⟨k, rfl⟩ := Int.eq_ofNat_of_zero_le h
    simp only [h, if_true, Int.toNat_natCast, zpow_natCast]
    rw [div_mul_eq_mul_div]
    have := Rat.floor_intCast_div_natCast (n * 2 ^ k) d
    push_cast at this ⊢
    rw [this]
  · obtain ⟨k, hk⟩ : ∃ k : Nat, z = -(k : ℤ) := ⟨(-z).toNat, by omega⟩
    subst hk
    simp only [h, if_false, neg_neg, Int.toNat_natCast, zpow_neg, zpow_natCast]
    rw [← div_eq_mul_inv, div_div]
    have := Rat.floor_intCast_div_natCast n (d * 2 ^ k)
    push_cast at this ⊢
    rw [this]

/-- The integer square root's bits-from-the-top search keeps `r * r <= n` and gains the bits still to come. -/
theorem sqrtBits_spec (n bits r : Nat) (hr : r * r ≤ n) (hn : n < (r + 2 ^ bits) * (r + 2 ^ bits)) :
    sqrtBits n bits r * sqrtBits n bits r ≤ n ∧ n < (sqrtBits n bits r + 1) * (sqrtBits n bits r + 1) := by
  induction bits generalizing r with
  | zero => exact ⟨hr, by simpa [sqrtBits] using hn⟩
  | succ b ih =>
    unfold sqrtBits
    split
    · rename_i h
      refine ih _ h ?_
      have : r + 2 ^ b + 2 ^ b = r + 2 ^ (b + 1) := by rw [pow_succ]; omega
      rw [this]; exact hn
    · rename_i h
      exact ih _ hr (by omega)

/-- `isqrt` is the integer square root. -/
theorem isqrt_spec (n : Nat) : isqrt n * isqrt n ≤ n ∧ n < (isqrt n + 1) * (isqrt n + 1) := by
  refine sqrtBits_spec n _ 0 (by simp) ?_
  have h1 : n < 2 ^ (n.log2 + 1) := Nat.lt_log2_self
  have h2 : 2 ^ (n.log2 + 1) ≤ 2 ^ ((n.log2 / 2 + 1) + (n.log2 / 2 + 1)) := Nat.pow_le_pow_right (by norm_num) (by omega)
  simpa [pow_add] using lt_of_lt_of_le h1 h2

/-- `round_pack` overflows, delivers a value that is not tiny, or underflows, judged on the value rounded to full
precision (40_numerics.md R112). -/
theorem roundPack_cases (sc : StatusContext) (s : Bool) (m : Exact) :
    let z := m.floorLog2 - p.sigBits + 1
    let r1 := rnd sc.roundingMode s m z
    let x1 := m.compareAt r1 z != .eq
    (p.emax + 1 ≤ log2At r1 z ∧ roundPack (p := p) sc s m = overflow sc s x1) ∨
    (log2At r1 z < p.emax + 1 ∧ p.emin ≤ log2At r1 z ∧
      roundPack (p := p) sc s m = { val := packExact s r1 z, flags := flagIf x1 flagP }) ∨
    (log2At r1 z < p.emin ∧ roundPack (p := p) sc s m = underflow sc s m x1) := by
  intro z r1 x1
  unfold roundPack
  by_cases h1 : p.emax + 1 ≤ log2At r1 z
  · exact .inl ⟨h1, if_pos h1⟩
  · by_cases h2 : p.emin ≤ log2At r1 z
    · exact .inr (.inl ⟨by omega, h2, by rw [if_neg h1, if_pos h2]⟩)
    · refine .inr (.inr ⟨by omega, ?_⟩)
      rw [if_neg h1, if_neg h2]

/-- A value with at most `p` significant bits fits the precision. -/
theorem fitsPrecision_of_lt (p : Prec) (k e : ℤ) (h : |k| < 2 ^ p.sigBits) : FitsPrecision p ((k : ℚ) * (2 : ℚ) ^ e) :=
  ⟨k, e, h, rfl⟩

/-- An odd multiple of a power of two is an integer multiple of another one only where that one is not greater. -/
theorem odd_mul_zpow_eq {m k z e : ℤ} (hm : Odd m) (h : (m : ℚ) * (2 : ℚ) ^ z = (k : ℚ) * (2 : ℚ) ^ e) :
    e ≤ z ∧ k = m * 2 ^ (z - e).toNat := by
  have h2 : (2 : ℚ) ≠ 0 := by norm_num
  have hq (a b : ℤ) (hab : a ≤ b) : (2 : ℚ) ^ b = (((2 : ℤ) ^ (b - a).toNat : ℤ) : ℚ) * (2 : ℚ) ^ a := by
    rw [Int.cast_pow, ← zpow_natCast, Int.toNat_of_nonneg (by omega)]
    push_cast
    rw [← zpow_add₀ h2]; congr 1; omega
  have hle : e ≤ z := by
    by_contra hc
    rw [hq z e (by omega), ← mul_assoc, mul_left_inj' (zpow_ne_zero _ h2)] at h
    have hi : m = k * 2 ^ (e - z).toNat := by exact_mod_cast h
    obtain ⟨j, hj⟩ : ∃ j, (e - z).toNat = j + 1 := ⟨(e - z).toNat - 1, by omega⟩
    rw [hj, pow_succ] at hi
    exact (Int.not_even_iff_odd.2 hm) (hi ▸ ⟨k * 2 ^ j, by ring⟩)
  refine ⟨hle, ?_⟩
  rw [hq e z hle, ← mul_assoc, mul_left_inj' (zpow_ne_zero _ h2)] at h
  exact_mod_cast h.symm

/-- An odd multiple of a power of two with more than `p` significant bits does not fit the precision. -/
theorem not_fitsPrecision_of_odd (p : Prec) {m : ℤ} (z : ℤ) (hm : Odd m) (h : 2 ^ p.sigBits ≤ |m|) :
    ¬ FitsPrecision p ((m : ℚ) * (2 : ℚ) ^ z) := by
  rintro ⟨k, e, hk, he⟩
  obtain ⟨-, rfl⟩ := odd_mul_zpow_eq hm he
  rw [abs_mul, abs_of_pos (by positivity : (0 : ℤ) < 2 ^ (z - e).toNat)] at hk
  have : |m| ≤ |m| * 2 ^ (z - e).toNat := le_mul_of_one_le_right (abs_nonneg m) (one_le_pow₀ (by norm_num))
  omega

/-- An odd multiple of a power of two below the smallest denormal lies off the denormal grid. -/
theorem not_onDenormalGrid_of_odd (p : Prec) {m z : ℤ} (hm : Odd m) (h : z < p.emin - (p.fb : ℤ)) :
    ¬ OnDenormalGrid p ((m : ℚ) * (2 : ℚ) ^ z) := by
  rintro ⟨k, he⟩
  have := (odd_mul_zpow_eq hm he).1
  omega

end Sys2Proof.Machine
end

