-- ==== Sys2Proof/Laws/PerInstr.lean ====
section
/-! SUPPORT. The statement family `Selection`, one lemma per instruction: the encoding of an instruction, under the selection
mask of its row of spec/opcode_table.json, is the row's match word (30_encoding.md R73). -/

namespace Sys2Proof.Laws.Selection

/-- The match word of an instruction: `op | prec<<5 | form<<6` (30_encoding.md R73). -/
def matchWord (i : Instr) : CmdWord :=
  i.op.code.setWidth 32 ||| (i.prec.code.setWidth 32 <<< 5) ||| (i.form.code.setWidth 32 <<< 6)

/-- The family: the selection bits of the encoding are the match word's, and every reserved bit is 0. -/
def Statement (i : Instr) : Prop := encode i &&& 0xFF00F87F#32 = matchWord i

/-- Whatever the operand fields hold, the selection bits of a word are its operation, precision and form. -/
theorem toWord_selection (o : BitVec 5) (p q : BitVec 1) (vl : BitVec 2) (m z : BitVec 1) (imm8 : BitVec 8) :
    (Command.toWord ⟨o, p, q, vl, m, z, 0#5, imm8, 0#8⟩) &&& 0xFF00F87F#32 =
      o.setWidth 32 ||| (p.setWidth 32 <<< 5) ||| (q.setWidth 32 <<< 6) := by
  apply BitVec.eq_of_getLsbD_eq
  intro i hi
  simp only [Command.toWord, BitVec.getLsbD_and, BitVec.getLsbD_or, BitVec.getLsbD_append, BitVec.getLsbD_setWidth,
    BitVec.getLsbD_shiftLeft]
  interval_cases i <;> simp

theorem addPs (f : Fields) : Statement (.addPs f) := toWord_selection _ _ _ _ _ _ _
theorem addPd (f : Fields) : Statement (.addPd f) := toWord_selection _ _ _ _ _ _ _
theorem addSs (f : Fields) : Statement (.addSs f) := toWord_selection _ _ _ _ _ _ _
theorem addSd (f : Fields) : Statement (.addSd f) := toWord_selection _ _ _ _ _ _ _
theorem subPs (f : Fields) : Statement (.subPs f) := toWord_selection _ _ _ _ _ _ _
theorem subPd (f : Fields) : Statement (.subPd f) := toWord_selection _ _ _ _ _ _ _
theorem subSs (f : Fields) : Statement (.subSs f) := toWord_selection _ _ _ _ _ _ _
theorem subSd (f : Fields) : Statement (.subSd f) := toWord_selection _ _ _ _ _ _ _
theorem mulPs (f : Fields) : Statement (.mulPs f) := toWord_selection _ _ _ _ _ _ _
theorem mulPd (f : Fields) : Statement (.mulPd f) := toWord_selection _ _ _ _ _ _ _
theorem mulSs (f : Fields) : Statement (.mulSs f) := toWord_selection _ _ _ _ _ _ _
theorem mulSd (f : Fields) : Statement (.mulSd f) := toWord_selection _ _ _ _ _ _ _
theorem divPs (f : Fields) : Statement (.divPs f) := toWord_selection _ _ _ _ _ _ _
theorem divPd (f : Fields) : Statement (.divPd f) := toWord_selection _ _ _ _ _ _ _
theorem divSs (f : Fields) : Statement (.divSs f) := toWord_selection _ _ _ _ _ _ _
theorem divSd (f : Fields) : Statement (.divSd f) := toWord_selection _ _ _ _ _ _ _
theorem minPs (f : Fields) : Statement (.minPs f) := toWord_selection _ _ _ _ _ _ _
theorem minPd (f : Fields) : Statement (.minPd f) := toWord_selection _ _ _ _ _ _ _
theorem minSs (f : Fields) : Statement (.minSs f) := toWord_selection _ _ _ _ _ _ _
theorem minSd (f : Fields) : Statement (.minSd f) := toWord_selection _ _ _ _ _ _ _
theorem maxPs (f : Fields) : Statement (.maxPs f) := toWord_selection _ _ _ _ _ _ _
theorem maxPd (f : Fields) : Statement (.maxPd f) := toWord_selection _ _ _ _ _ _ _
theorem maxSs (f : Fields) : Statement (.maxSs f) := toWord_selection _ _ _ _ _ _ _
theorem maxSd (f : Fields) : Statement (.maxSd f) := toWord_selection _ _ _ _ _ _ _
theorem sqrtPs (f : Fields) : Statement (.sqrtPs f) := toWord_selection _ _ _ _ _ _ _
theorem sqrtPd (f : Fields) : Statement (.sqrtPd f) := toWord_selection _ _ _ _ _ _ _
theorem sqrtSs (f : Fields) : Statement (.sqrtSs f) := toWord_selection _ _ _ _ _ _ _
theorem sqrtSd (f : Fields) : Statement (.sqrtSd f) := toWord_selection _ _ _ _ _ _ _
theorem fmaddPs (f : Fields) : Statement (.fmaddPs f) := toWord_selection _ _ _ _ _ _ _
theorem fmaddPd (f : Fields) : Statement (.fmaddPd f) := toWord_selection _ _ _ _ _ _ _
theorem fmaddSs (f : Fields) : Statement (.fmaddSs f) := toWord_selection _ _ _ _ _ _ _
theorem fmaddSd (f : Fields) : Statement (.fmaddSd f) := toWord_selection _ _ _ _ _ _ _
theorem fmsubPs (f : Fields) : Statement (.fmsubPs f) := toWord_selection _ _ _ _ _ _ _
theorem fmsubPd (f : Fields) : Statement (.fmsubPd f) := toWord_selection _ _ _ _ _ _ _
theorem fmsubSs (f : Fields) : Statement (.fmsubSs f) := toWord_selection _ _ _ _ _ _ _
theorem fmsubSd (f : Fields) : Statement (.fmsubSd f) := toWord_selection _ _ _ _ _ _ _
theorem fnmaddPs (f : Fields) : Statement (.fnmaddPs f) := toWord_selection _ _ _ _ _ _ _
theorem fnmaddPd (f : Fields) : Statement (.fnmaddPd f) := toWord_selection _ _ _ _ _ _ _
theorem fnmaddSs (f : Fields) : Statement (.fnmaddSs f) := toWord_selection _ _ _ _ _ _ _
theorem fnmaddSd (f : Fields) : Statement (.fnmaddSd f) := toWord_selection _ _ _ _ _ _ _
theorem fnmsubPs (f : Fields) : Statement (.fnmsubPs f) := toWord_selection _ _ _ _ _ _ _
theorem fnmsubPd (f : Fields) : Statement (.fnmsubPd f) := toWord_selection _ _ _ _ _ _ _
theorem fnmsubSs (f : Fields) : Statement (.fnmsubSs f) := toWord_selection _ _ _ _ _ _ _
theorem fnmsubSd (f : Fields) : Statement (.fnmsubSd f) := toWord_selection _ _ _ _ _ _ _
theorem fixupimmPs (f : Fields) : Statement (.fixupimmPs f) := toWord_selection _ _ _ _ _ _ _
theorem fixupimmPd (f : Fields) : Statement (.fixupimmPd f) := toWord_selection _ _ _ _ _ _ _
theorem fixupimmSs (f : Fields) : Statement (.fixupimmSs f) := toWord_selection _ _ _ _ _ _ _
theorem fixupimmSd (f : Fields) : Statement (.fixupimmSd f) := toWord_selection _ _ _ _ _ _ _
theorem fpclassPs (f : Fields) : Statement (.fpclassPs f) := toWord_selection _ _ _ _ _ _ _
theorem fpclassPd (f : Fields) : Statement (.fpclassPd f) := toWord_selection _ _ _ _ _ _ _
theorem fpclassSs (f : Fields) : Statement (.fpclassSs f) := toWord_selection _ _ _ _ _ _ _
theorem fpclassSd (f : Fields) : Statement (.fpclassSd f) := toWord_selection _ _ _ _ _ _ _
theorem getexpPs (f : Fields) : Statement (.getexpPs f) := toWord_selection _ _ _ _ _ _ _
theorem getexpPd (f : Fields) : Statement (.getexpPd f) := toWord_selection _ _ _ _ _ _ _
theorem getexpSs (f : Fields) : Statement (.getexpSs f) := toWord_selection _ _ _ _ _ _ _
theorem getexpSd (f : Fields) : Statement (.getexpSd f) := toWord_selection _ _ _ _ _ _ _
theorem getmantPs (f : Fields) : Statement (.getmantPs f) := toWord_selection _ _ _ _ _ _ _
theorem getmantPd (f : Fields) : Statement (.getmantPd f) := toWord_selection _ _ _ _ _ _ _
theorem getmantSs (f : Fields) : Statement (.getmantSs f) := toWord_selection _ _ _ _ _ _ _
theorem getmantSd (f : Fields) : Statement (.getmantSd f) := toWord_selection _ _ _ _ _ _ _
theorem rangePs (f : Fields) : Statement (.rangePs f) := toWord_selection _ _ _ _ _ _ _
theorem rangePd (f : Fields) : Statement (.rangePd f) := toWord_selection _ _ _ _ _ _ _
theorem rangeSs (f : Fields) : Statement (.rangeSs f) := toWord_selection _ _ _ _ _ _ _
theorem rangeSd (f : Fields) : Statement (.rangeSd f) := toWord_selection _ _ _ _ _ _ _
theorem reducePs (f : Fields) : Statement (.reducePs f) := toWord_selection _ _ _ _ _ _ _
theorem reducePd (f : Fields) : Statement (.reducePd f) := toWord_selection _ _ _ _ _ _ _
theorem reduceSs (f : Fields) : Statement (.reduceSs f) := toWord_selection _ _ _ _ _ _ _
theorem reduceSd (f : Fields) : Statement (.reduceSd f) := toWord_selection _ _ _ _ _ _ _
theorem rndscalePs (f : Fields) : Statement (.rndscalePs f) := toWord_selection _ _ _ _ _ _ _
theorem rndscalePd (f : Fields) : Statement (.rndscalePd f) := toWord_selection _ _ _ _ _ _ _
theorem rndscaleSs (f : Fields) : Statement (.rndscaleSs f) := toWord_selection _ _ _ _ _ _ _
theorem rndscaleSd (f : Fields) : Statement (.rndscaleSd f) := toWord_selection _ _ _ _ _ _ _
theorem scalefPs (f : Fields) : Statement (.scalefPs f) := toWord_selection _ _ _ _ _ _ _
theorem scalefPd (f : Fields) : Statement (.scalefPd f) := toWord_selection _ _ _ _ _ _ _
theorem scalefSs (f : Fields) : Statement (.scalefSs f) := toWord_selection _ _ _ _ _ _ _
theorem scalefSd (f : Fields) : Statement (.scalefSd f) := toWord_selection _ _ _ _ _ _ _
theorem cmpPs (f : Fields) : Statement (.cmpPs f) := toWord_selection _ _ _ _ _ _ _
theorem cmpPd (f : Fields) : Statement (.cmpPd f) := toWord_selection _ _ _ _ _ _ _
theorem cmpSs (f : Fields) : Statement (.cmpSs f) := toWord_selection _ _ _ _ _ _ _
theorem cmpSd (f : Fields) : Statement (.cmpSd f) := toWord_selection _ _ _ _ _ _ _

end Sys2Proof.Laws.Selection
end

