-- ==== Sys2Proof/Tests/Slice0.lean ====
section
/-! SUPPORT. Tests: ill-formed commands are refused, command words written out bit by bit decode to the instruction they stand
for, single steps give the values of the spec's own examples and vectors, and for every statement with hypotheses a concrete
state and operands that meet them all (`witness_…`). Every expected value is the spec's, from the place a test's comment
names. -/

namespace Sys2Proof.Tests

set_option Elab.async false

open Sys2Proof.Machine

/-! ### Well-formedness: one ill-formed command for each check (30_encoding.md R75) -/

/-- A legal command record: ADD.PS.128, no mask. -/
def legal : Command := ⟨0#5, 0#1, 0#1, 0#2, 0#1, 0#1, 0#5, 0#8, 0#8⟩

theorem test_legal_accepted : legal.wellFormed = true := by decide
theorem test_op_20_refused : ({ legal with op := 20#5 } : Command).opDefined = false ∧
    ({ legal with op := 20#5 } : Command).wellFormed = false ∧
    decode ({ legal with op := 20#5 } : Command).toWord = .error (.operation 20#5) := by decide
theorem test_vl_3_refused : ({ legal with vl := 3#2 } : Command).vlDefined = false ∧
    ({ legal with vl := 3#2 } : Command).wellFormed = false ∧
    decode ({ legal with vl := 3#2 } : Command).toWord = .error .vectorLength := by decide
theorem test_reserved_bit_15_refused : ({ legal with rsvdLow := 0x10#5 } : Command).reservedClear = false ∧
    ({ legal with rsvdLow := 0x10#5 } : Command).wellFormed = false ∧
    decode ({ legal with rsvdLow := 0x10#5 } : Command).toWord = .error .reservedBits := by decide
theorem test_reserved_bit_24_refused : ({ legal with rsvdHigh := 0x01#8 } : Command).reservedClear = false ∧
    ({ legal with rsvdHigh := 0x01#8 } : Command).wellFormed = false ∧
    decode ({ legal with rsvdHigh := 0x01#8 } : Command).toWord = .error .reservedBits := by decide
/-- The reserved words of 96_test_vectors_families.md 2.16. -/
theorem test_reserved_words :
    decode 0x00000014#32 = .error (.operation 20#5) ∧ decode 0x0000001F#32 = .error (.operation 31#5) ∧
    decode 0x00000180#32 = .error .vectorLength ∧ decode 0x00000800#32 = .error .reservedBits ∧
    decode 0x00008000#32 = .error .reservedBits ∧ decode 0x01000000#32 = .error .reservedBits ∧
    decode 0x80000000#32 = .error .reservedBits := by decide
/-- `zero` without a mask is not reserved (96_test_vectors_families.md 2.16). -/
theorem test_zero_without_mask_is_legal : decode 0x00000400#32 = .ok (.addPs ⟨.v128, false, true, 0x00#8⟩) := by decide

/-! ### Decoding: every constructor, its word written out from bit 31 to bit 0 as 30_encoding.md R71 lays it out:
reserved, imm8, reserved, zero, mask_en, vl, form, prec, op -/

theorem test_decode_add :
    decode (0b00000000#8 ++ 0b00000000#8 ++ 0b00000#5 ++ 0b0#1 ++ 0b0#1 ++ 0b00#2 ++ 0b0#1 ++ 0b0#1 ++
      0b00000#5) = .ok (.addPs ⟨.v128, false, false, 0x00#8⟩) ∧
    decode (0b00000000#8 ++ 0b10000001#8 ++ 0b00000#5 ++ 0b0#1 ++ 0b1#1 ++ 0b01#2 ++ 0b0#1 ++ 0b1#1 ++
      0b00000#5) = .ok (.addPd ⟨.v256, true, false, 0x81#8⟩) ∧
    decode (0b00000000#8 ++ 0b01011010#8 ++ 0b00000#5 ++ 0b1#1 ++ 0b1#1 ++ 0b10#2 ++ 0b1#1 ++ 0b0#1 ++
      0b00000#5) = .ok (.addSs ⟨.v512, true, true, 0x5A#8⟩) ∧
    decode (0b00000000#8 ++ 0b11110000#8 ++ 0b00000#5 ++ 0b1#1 ++ 0b0#1 ++ 0b10#2 ++ 0b1#1 ++ 0b1#1 ++
      0b00000#5) = .ok (.addSd ⟨.v512, false, true, 0xF0#8⟩) := by decide
theorem test_decode_sub :
    decode (0b00000000#8 ++ 0b00000000#8 ++ 0b00000#5 ++ 0b0#1 ++ 0b0#1 ++ 0b00#2 ++ 0b0#1 ++ 0b0#1 ++
      0b00001#5) = .ok (.subPs ⟨.v128, false, false, 0x00#8⟩) ∧
    decode (0b00000000#8 ++ 0b10000001#8 ++ 0b00000#5 ++ 0b0#1 ++ 0b1#1 ++ 0b01#2 ++ 0b0#1 ++ 0b1#1 ++
      0b00001#5) = .ok (.subPd ⟨.v256, true, false, 0x81#8⟩) ∧
    decode (0b00000000#8 ++ 0b01011010#8 ++ 0b00000#5 ++ 0b1#1 ++ 0b1#1 ++ 0b10#2 ++ 0b1#1 ++ 0b0#1 ++
      0b00001#5) = .ok (.subSs ⟨.v512, true, true, 0x5A#8⟩) ∧
    decode (0b00000000#8 ++ 0b11110000#8 ++ 0b00000#5 ++ 0b1#1 ++ 0b0#1 ++ 0b10#2 ++ 0b1#1 ++ 0b1#1 ++
      0b00001#5) = .ok (.subSd ⟨.v512, false, true, 0xF0#8⟩) := by decide
theorem test_decode_mul :
    decode (0b00000000#8 ++ 0b00000000#8 ++ 0b00000#5 ++ 0b0#1 ++ 0b0#1 ++ 0b00#2 ++ 0b0#1 ++ 0b0#1 ++
      0b00010#5) = .ok (.mulPs ⟨.v128, false, false, 0x00#8⟩) ∧
    decode (0b00000000#8 ++ 0b10000001#8 ++ 0b00000#5 ++ 0b0#1 ++ 0b1#1 ++ 0b01#2 ++ 0b0#1 ++ 0b1#1 ++
      0b00010#5) = .ok (.mulPd ⟨.v256, true, false, 0x81#8⟩) ∧
    decode (0b00000000#8 ++ 0b01011010#8 ++ 0b00000#5 ++ 0b1#1 ++ 0b1#1 ++ 0b10#2 ++ 0b1#1 ++ 0b0#1 ++
      0b00010#5) = .ok (.mulSs ⟨.v512, true, true, 0x5A#8⟩) ∧
    decode (0b00000000#8 ++ 0b11110000#8 ++ 0b00000#5 ++ 0b1#1 ++ 0b0#1 ++ 0b10#2 ++ 0b1#1 ++ 0b1#1 ++
      0b00010#5) = .ok (.mulSd ⟨.v512, false, true, 0xF0#8⟩) := by decide
theorem test_decode_div :
    decode (0b00000000#8 ++ 0b00000000#8 ++ 0b00000#5 ++ 0b0#1 ++ 0b0#1 ++ 0b00#2 ++ 0b0#1 ++ 0b0#1 ++
      0b00011#5) = .ok (.divPs ⟨.v128, false, false, 0x00#8⟩) ∧
    decode (0b00000000#8 ++ 0b10000001#8 ++ 0b00000#5 ++ 0b0#1 ++ 0b1#1 ++ 0b01#2 ++ 0b0#1 ++ 0b1#1 ++
      0b00011#5) = .ok (.divPd ⟨.v256, true, false, 0x81#8⟩) ∧
    decode (0b00000000#8 ++ 0b01011010#8 ++ 0b00000#5 ++ 0b1#1 ++ 0b1#1 ++ 0b10#2 ++ 0b1#1 ++ 0b0#1 ++
      0b00011#5) = .ok (.divSs ⟨.v512, true, true, 0x5A#8⟩) ∧
    decode (0b00000000#8 ++ 0b11110000#8 ++ 0b00000#5 ++ 0b1#1 ++ 0b0#1 ++ 0b10#2 ++ 0b1#1 ++ 0b1#1 ++
      0b00011#5) = .ok (.divSd ⟨.v512, false, true, 0xF0#8⟩) := by decide
theorem test_decode_min :
    decode (0b00000000#8 ++ 0b00000000#8 ++ 0b00000#5 ++ 0b0#1 ++ 0b0#1 ++ 0b00#2 ++ 0b0#1 ++ 0b0#1 ++
      0b00100#5) = .ok (.minPs ⟨.v128, false, false, 0x00#8⟩) ∧
    decode (0b00000000#8 ++ 0b10000001#8 ++ 0b00000#5 ++ 0b0#1 ++ 0b1#1 ++ 0b01#2 ++ 0b0#1 ++ 0b1#1 ++
      0b00100#5) = .ok (.minPd ⟨.v256, true, false, 0x81#8⟩) ∧
    decode (0b00000000#8 ++ 0b01011010#8 ++ 0b00000#5 ++ 0b1#1 ++ 0b1#1 ++ 0b10#2 ++ 0b1#1 ++ 0b0#1 ++
      0b00100#5) = .ok (.minSs ⟨.v512, true, true, 0x5A#8⟩) ∧
    decode (0b00000000#8 ++ 0b11110000#8 ++ 0b00000#5 ++ 0b1#1 ++ 0b0#1 ++ 0b10#2 ++ 0b1#1 ++ 0b1#1 ++
      0b00100#5) = .ok (.minSd ⟨.v512, false, true, 0xF0#8⟩) := by decide
theorem test_decode_max :
    decode (0b00000000#8 ++ 0b00000000#8 ++ 0b00000#5 ++ 0b0#1 ++ 0b0#1 ++ 0b00#2 ++ 0b0#1 ++ 0b0#1 ++
      0b00101#5) = .ok (.maxPs ⟨.v128, false, false, 0x00#8⟩) ∧
    decode (0b00000000#8 ++ 0b10000001#8 ++ 0b00000#5 ++ 0b0#1 ++ 0b1#1 ++ 0b01#2 ++ 0b0#1 ++ 0b1#1 ++
      0b00101#5) = .ok (.maxPd ⟨.v256, true, false, 0x81#8⟩) ∧
    decode (0b00000000#8 ++ 0b01011010#8 ++ 0b00000#5 ++ 0b1#1 ++ 0b1#1 ++ 0b10#2 ++ 0b1#1 ++ 0b0#1 ++
      0b00101#5) = .ok (.maxSs ⟨.v512, true, true, 0x5A#8⟩) ∧
    decode (0b00000000#8 ++ 0b11110000#8 ++ 0b00000#5 ++ 0b1#1 ++ 0b0#1 ++ 0b10#2 ++ 0b1#1 ++ 0b1#1 ++
      0b00101#5) = .ok (.maxSd ⟨.v512, false, true, 0xF0#8⟩) := by decide
theorem test_decode_sqrt :
    decode (0b00000000#8 ++ 0b00000000#8 ++ 0b00000#5 ++ 0b0#1 ++ 0b0#1 ++ 0b00#2 ++ 0b0#1 ++ 0b0#1 ++
      0b00110#5) = .ok (.sqrtPs ⟨.v128, false, false, 0x00#8⟩) ∧
    decode (0b00000000#8 ++ 0b10000001#8 ++ 0b00000#5 ++ 0b0#1 ++ 0b1#1 ++ 0b01#2 ++ 0b0#1 ++ 0b1#1 ++
      0b00110#5) = .ok (.sqrtPd ⟨.v256, true, false, 0x81#8⟩) ∧
    decode (0b00000000#8 ++ 0b01011010#8 ++ 0b00000#5 ++ 0b1#1 ++ 0b1#1 ++ 0b10#2 ++ 0b1#1 ++ 0b0#1 ++
      0b00110#5) = .ok (.sqrtSs ⟨.v512, true, true, 0x5A#8⟩) ∧
    decode (0b00000000#8 ++ 0b11110000#8 ++ 0b00000#5 ++ 0b1#1 ++ 0b0#1 ++ 0b10#2 ++ 0b1#1 ++ 0b1#1 ++
      0b00110#5) = .ok (.sqrtSd ⟨.v512, false, true, 0xF0#8⟩) := by decide
theorem test_decode_fmadd :
    decode (0b00000000#8 ++ 0b00000000#8 ++ 0b00000#5 ++ 0b0#1 ++ 0b0#1 ++ 0b00#2 ++ 0b0#1 ++ 0b0#1 ++
      0b00111#5) = .ok (.fmaddPs ⟨.v128, false, false, 0x00#8⟩) ∧
    decode (0b00000000#8 ++ 0b10000001#8 ++ 0b00000#5 ++ 0b0#1 ++ 0b1#1 ++ 0b01#2 ++ 0b0#1 ++ 0b1#1 ++
      0b00111#5) = .ok (.fmaddPd ⟨.v256, true, false, 0x81#8⟩) ∧
    decode (0b00000000#8 ++ 0b01011010#8 ++ 0b00000#5 ++ 0b1#1 ++ 0b1#1 ++ 0b10#2 ++ 0b1#1 ++ 0b0#1 ++
      0b00111#5) = .ok (.fmaddSs ⟨.v512, true, true, 0x5A#8⟩) ∧
    decode (0b00000000#8 ++ 0b11110000#8 ++ 0b00000#5 ++ 0b1#1 ++ 0b0#1 ++ 0b10#2 ++ 0b1#1 ++ 0b1#1 ++
      0b00111#5) = .ok (.fmaddSd ⟨.v512, false, true, 0xF0#8⟩) := by decide
theorem test_decode_fmsub :
    decode (0b00000000#8 ++ 0b00000000#8 ++ 0b00000#5 ++ 0b0#1 ++ 0b0#1 ++ 0b00#2 ++ 0b0#1 ++ 0b0#1 ++
      0b01000#5) = .ok (.fmsubPs ⟨.v128, false, false, 0x00#8⟩) ∧
    decode (0b00000000#8 ++ 0b10000001#8 ++ 0b00000#5 ++ 0b0#1 ++ 0b1#1 ++ 0b01#2 ++ 0b0#1 ++ 0b1#1 ++
      0b01000#5) = .ok (.fmsubPd ⟨.v256, true, false, 0x81#8⟩) ∧
    decode (0b00000000#8 ++ 0b01011010#8 ++ 0b00000#5 ++ 0b1#1 ++ 0b1#1 ++ 0b10#2 ++ 0b1#1 ++ 0b0#1 ++
      0b01000#5) = .ok (.fmsubSs ⟨.v512, true, true, 0x5A#8⟩) ∧
    decode (0b00000000#8 ++ 0b11110000#8 ++ 0b00000#5 ++ 0b1#1 ++ 0b0#1 ++ 0b10#2 ++ 0b1#1 ++ 0b1#1 ++
      0b01000#5) = .ok (.fmsubSd ⟨.v512, false, true, 0xF0#8⟩) := by decide
theorem test_decode_fnmadd :
    decode (0b00000000#8 ++ 0b00000000#8 ++ 0b00000#5 ++ 0b0#1 ++ 0b0#1 ++ 0b00#2 ++ 0b0#1 ++ 0b0#1 ++
      0b01001#5) = .ok (.fnmaddPs ⟨.v128, false, false, 0x00#8⟩) ∧
    decode (0b00000000#8 ++ 0b10000001#8 ++ 0b00000#5 ++ 0b0#1 ++ 0b1#1 ++ 0b01#2 ++ 0b0#1 ++ 0b1#1 ++
      0b01001#5) = .ok (.fnmaddPd ⟨.v256, true, false, 0x81#8⟩) ∧
    decode (0b00000000#8 ++ 0b01011010#8 ++ 0b00000#5 ++ 0b1#1 ++ 0b1#1 ++ 0b10#2 ++ 0b1#1 ++ 0b0#1 ++
      0b01001#5) = .ok (.fnmaddSs ⟨.v512, true, true, 0x5A#8⟩) ∧
    decode (0b00000000#8 ++ 0b11110000#8 ++ 0b00000#5 ++ 0b1#1 ++ 0b0#1 ++ 0b10#2 ++ 0b1#1 ++ 0b1#1 ++
      0b01001#5) = .ok (.fnmaddSd ⟨.v512, false, true, 0xF0#8⟩) := by decide
theorem test_decode_fnmsub :
    decode (0b00000000#8 ++ 0b00000000#8 ++ 0b00000#5 ++ 0b0#1 ++ 0b0#1 ++ 0b00#2 ++ 0b0#1 ++ 0b0#1 ++
      0b01010#5) = .ok (.fnmsubPs ⟨.v128, false, false, 0x00#8⟩) ∧
    decode (0b00000000#8 ++ 0b10000001#8 ++ 0b00000#5 ++ 0b0#1 ++ 0b1#1 ++ 0b01#2 ++ 0b0#1 ++ 0b1#1 ++
      0b01010#5) = .ok (.fnmsubPd ⟨.v256, true, false, 0x81#8⟩) ∧
    decode (0b00000000#8 ++ 0b01011010#8 ++ 0b00000#5 ++ 0b1#1 ++ 0b1#1 ++ 0b10#2 ++ 0b1#1 ++ 0b0#1 ++
      0b01010#5) = .ok (.fnmsubSs ⟨.v512, true, true, 0x5A#8⟩) ∧
    decode (0b00000000#8 ++ 0b11110000#8 ++ 0b00000#5 ++ 0b1#1 ++ 0b0#1 ++ 0b10#2 ++ 0b1#1 ++ 0b1#1 ++
      0b01010#5) = .ok (.fnmsubSd ⟨.v512, false, true, 0xF0#8⟩) := by decide
theorem test_decode_fixupimm :
    decode (0b00000000#8 ++ 0b00000000#8 ++ 0b00000#5 ++ 0b0#1 ++ 0b0#1 ++ 0b00#2 ++ 0b0#1 ++ 0b0#1 ++
      0b01011#5) = .ok (.fixupimmPs ⟨.v128, false, false, 0x00#8⟩) ∧
    decode (0b00000000#8 ++ 0b10000001#8 ++ 0b00000#5 ++ 0b0#1 ++ 0b1#1 ++ 0b01#2 ++ 0b0#1 ++ 0b1#1 ++
      0b01011#5) = .ok (.fixupimmPd ⟨.v256, true, false, 0x81#8⟩) ∧
    decode (0b00000000#8 ++ 0b01011010#8 ++ 0b00000#5 ++ 0b1#1 ++ 0b1#1 ++ 0b10#2 ++ 0b1#1 ++ 0b0#1 ++
      0b01011#5) = .ok (.fixupimmSs ⟨.v512, true, true, 0x5A#8⟩) ∧
    decode (0b00000000#8 ++ 0b11110000#8 ++ 0b00000#5 ++ 0b1#1 ++ 0b0#1 ++ 0b10#2 ++ 0b1#1 ++ 0b1#1 ++
      0b01011#5) = .ok (.fixupimmSd ⟨.v512, false, true, 0xF0#8⟩) := by decide
theorem test_decode_fpclass :
    decode (0b00000000#8 ++ 0b00000000#8 ++ 0b00000#5 ++ 0b0#1 ++ 0b0#1 ++ 0b00#2 ++ 0b0#1 ++ 0b0#1 ++
      0b01100#5) = .ok (.fpclassPs ⟨.v128, false, false, 0x00#8⟩) ∧
    decode (0b00000000#8 ++ 0b10000001#8 ++ 0b00000#5 ++ 0b0#1 ++ 0b1#1 ++ 0b01#2 ++ 0b0#1 ++ 0b1#1 ++
      0b01100#5) = .ok (.fpclassPd ⟨.v256, true, false, 0x81#8⟩) ∧
    decode (0b00000000#8 ++ 0b01011010#8 ++ 0b00000#5 ++ 0b1#1 ++ 0b1#1 ++ 0b10#2 ++ 0b1#1 ++ 0b0#1 ++
      0b01100#5) = .ok (.fpclassSs ⟨.v512, true, true, 0x5A#8⟩) ∧
    decode (0b00000000#8 ++ 0b11110000#8 ++ 0b00000#5 ++ 0b1#1 ++ 0b0#1 ++ 0b10#2 ++ 0b1#1 ++ 0b1#1 ++
      0b01100#5) = .ok (.fpclassSd ⟨.v512, false, true, 0xF0#8⟩) := by decide
theorem test_decode_getexp :
    decode (0b00000000#8 ++ 0b00000000#8 ++ 0b00000#5 ++ 0b0#1 ++ 0b0#1 ++ 0b00#2 ++ 0b0#1 ++ 0b0#1 ++
      0b01101#5) = .ok (.getexpPs ⟨.v128, false, false, 0x00#8⟩) ∧
    decode (0b00000000#8 ++ 0b10000001#8 ++ 0b00000#5 ++ 0b0#1 ++ 0b1#1 ++ 0b01#2 ++ 0b0#1 ++ 0b1#1 ++
      0b01101#5) = .ok (.getexpPd ⟨.v256, true, false, 0x81#8⟩) ∧
    decode (0b00000000#8 ++ 0b01011010#8 ++ 0b00000#5 ++ 0b1#1 ++ 0b1#1 ++ 0b10#2 ++ 0b1#1 ++ 0b0#1 ++
      0b01101#5) = .ok (.getexpSs ⟨.v512, true, true, 0x5A#8⟩) ∧
    decode (0b00000000#8 ++ 0b11110000#8 ++ 0b00000#5 ++ 0b1#1 ++ 0b0#1 ++ 0b10#2 ++ 0b1#1 ++ 0b1#1 ++
      0b01101#5) = .ok (.getexpSd ⟨.v512, false, true, 0xF0#8⟩) := by decide
theorem test_decode_getmant :
    decode (0b00000000#8 ++ 0b00000000#8 ++ 0b00000#5 ++ 0b0#1 ++ 0b0#1 ++ 0b00#2 ++ 0b0#1 ++ 0b0#1 ++
      0b01110#5) = .ok (.getmantPs ⟨.v128, false, false, 0x00#8⟩) ∧
    decode (0b00000000#8 ++ 0b10000001#8 ++ 0b00000#5 ++ 0b0#1 ++ 0b1#1 ++ 0b01#2 ++ 0b0#1 ++ 0b1#1 ++
      0b01110#5) = .ok (.getmantPd ⟨.v256, true, false, 0x81#8⟩) ∧
    decode (0b00000000#8 ++ 0b01011010#8 ++ 0b00000#5 ++ 0b1#1 ++ 0b1#1 ++ 0b10#2 ++ 0b1#1 ++ 0b0#1 ++
      0b01110#5) = .ok (.getmantSs ⟨.v512, true, true, 0x5A#8⟩) ∧
    decode (0b00000000#8 ++ 0b11110000#8 ++ 0b00000#5 ++ 0b1#1 ++ 0b0#1 ++ 0b10#2 ++ 0b1#1 ++ 0b1#1 ++
      0b01110#5) = .ok (.getmantSd ⟨.v512, false, true, 0xF0#8⟩) := by decide
theorem test_decode_range :
    decode (0b00000000#8 ++ 0b00000000#8 ++ 0b00000#5 ++ 0b0#1 ++ 0b0#1 ++ 0b00#2 ++ 0b0#1 ++ 0b0#1 ++
      0b01111#5) = .ok (.rangePs ⟨.v128, false, false, 0x00#8⟩) ∧
    decode (0b00000000#8 ++ 0b10000001#8 ++ 0b00000#5 ++ 0b0#1 ++ 0b1#1 ++ 0b01#2 ++ 0b0#1 ++ 0b1#1 ++
      0b01111#5) = .ok (.rangePd ⟨.v256, true, false, 0x81#8⟩) ∧
    decode (0b00000000#8 ++ 0b01011010#8 ++ 0b00000#5 ++ 0b1#1 ++ 0b1#1 ++ 0b10#2 ++ 0b1#1 ++ 0b0#1 ++
      0b01111#5) = .ok (.rangeSs ⟨.v512, true, true, 0x5A#8⟩) ∧
    decode (0b00000000#8 ++ 0b11110000#8 ++ 0b00000#5 ++ 0b1#1 ++ 0b0#1 ++ 0b10#2 ++ 0b1#1 ++ 0b1#1 ++
      0b01111#5) = .ok (.rangeSd ⟨.v512, false, true, 0xF0#8⟩) := by decide
theorem test_decode_reduce :
    decode (0b00000000#8 ++ 0b00000000#8 ++ 0b00000#5 ++ 0b0#1 ++ 0b0#1 ++ 0b00#2 ++ 0b0#1 ++ 0b0#1 ++
      0b10000#5) = .ok (.reducePs ⟨.v128, false, false, 0x00#8⟩) ∧
    decode (0b00000000#8 ++ 0b10000001#8 ++ 0b00000#5 ++ 0b0#1 ++ 0b1#1 ++ 0b01#2 ++ 0b0#1 ++ 0b1#1 ++
      0b10000#5) = .ok (.reducePd ⟨.v256, true, false, 0x81#8⟩) ∧
    decode (0b00000000#8 ++ 0b01011010#8 ++ 0b00000#5 ++ 0b1#1 ++ 0b1#1 ++ 0b10#2 ++ 0b1#1 ++ 0b0#1 ++
      0b10000#5) = .ok (.reduceSs ⟨.v512, true, true, 0x5A#8⟩) ∧
    decode (0b00000000#8 ++ 0b11110000#8 ++ 0b00000#5 ++ 0b1#1 ++ 0b0#1 ++ 0b10#2 ++ 0b1#1 ++ 0b1#1 ++
      0b10000#5) = .ok (.reduceSd ⟨.v512, false, true, 0xF0#8⟩) := by decide
theorem test_decode_rndscale :
    decode (0b00000000#8 ++ 0b00000000#8 ++ 0b00000#5 ++ 0b0#1 ++ 0b0#1 ++ 0b00#2 ++ 0b0#1 ++ 0b0#1 ++
      0b10001#5) = .ok (.rndscalePs ⟨.v128, false, false, 0x00#8⟩) ∧
    decode (0b00000000#8 ++ 0b10000001#8 ++ 0b00000#5 ++ 0b0#1 ++ 0b1#1 ++ 0b01#2 ++ 0b0#1 ++ 0b1#1 ++
      0b10001#5) = .ok (.rndscalePd ⟨.v256, true, false, 0x81#8⟩) ∧
    decode (0b00000000#8 ++ 0b01011010#8 ++ 0b00000#5 ++ 0b1#1 ++ 0b1#1 ++ 0b10#2 ++ 0b1#1 ++ 0b0#1 ++
      0b10001#5) = .ok (.rndscaleSs ⟨.v512, true, true, 0x5A#8⟩) ∧
    decode (0b00000000#8 ++ 0b11110000#8 ++ 0b00000#5 ++ 0b1#1 ++ 0b0#1 ++ 0b10#2 ++ 0b1#1 ++ 0b1#1 ++
      0b10001#5) = .ok (.rndscaleSd ⟨.v512, false, true, 0xF0#8⟩) := by decide
theorem test_decode_scalef :
    decode (0b00000000#8 ++ 0b00000000#8 ++ 0b00000#5 ++ 0b0#1 ++ 0b0#1 ++ 0b00#2 ++ 0b0#1 ++ 0b0#1 ++
      0b10010#5) = .ok (.scalefPs ⟨.v128, false, false, 0x00#8⟩) ∧
    decode (0b00000000#8 ++ 0b10000001#8 ++ 0b00000#5 ++ 0b0#1 ++ 0b1#1 ++ 0b01#2 ++ 0b0#1 ++ 0b1#1 ++
      0b10010#5) = .ok (.scalefPd ⟨.v256, true, false, 0x81#8⟩) ∧
    decode (0b00000000#8 ++ 0b01011010#8 ++ 0b00000#5 ++ 0b1#1 ++ 0b1#1 ++ 0b10#2 ++ 0b1#1 ++ 0b0#1 ++
      0b10010#5) = .ok (.scalefSs ⟨.v512, true, true, 0x5A#8⟩) ∧
    decode (0b00000000#8 ++ 0b11110000#8 ++ 0b00000#5 ++ 0b1#1 ++ 0b0#1 ++ 0b10#2 ++ 0b1#1 ++ 0b1#1 ++
      0b10010#5) = .ok (.scalefSd ⟨.v512, false, true, 0xF0#8⟩) := by decide
theorem test_decode_cmp :
    decode (0b00000000#8 ++ 0b00000000#8 ++ 0b00000#5 ++ 0b0#1 ++ 0b0#1 ++ 0b00#2 ++ 0b0#1 ++ 0b0#1 ++
      0b10011#5) = .ok (.cmpPs ⟨.v128, false, false, 0x00#8⟩) ∧
    decode (0b00000000#8 ++ 0b10000001#8 ++ 0b00000#5 ++ 0b0#1 ++ 0b1#1 ++ 0b01#2 ++ 0b0#1 ++ 0b1#1 ++
      0b10011#5) = .ok (.cmpPd ⟨.v256, true, false, 0x81#8⟩) ∧
    decode (0b00000000#8 ++ 0b01011010#8 ++ 0b00000#5 ++ 0b1#1 ++ 0b1#1 ++ 0b10#2 ++ 0b1#1 ++ 0b0#1 ++
      0b10011#5) = .ok (.cmpSs ⟨.v512, true, true, 0x5A#8⟩) ∧
    decode (0b00000000#8 ++ 0b11110000#8 ++ 0b00000#5 ++ 0b1#1 ++ 0b0#1 ++ 0b10#2 ++ 0b1#1 ++ 0b1#1 ++
      0b10011#5) = .ok (.cmpSd ⟨.v512, false, true, 0xF0#8⟩) := by decide

/-! ### Single steps -/

/-- A state with a command issued and the ports presented. -/
def port (w : CmdWord) (ctrl : CtrlWord) (a b c d : Container) (k : MaskWord) : State :=
  { State.reset with ctrl := ctrl, cmd := some w, a := a, b := b, c := c, dprior := d, k := k }

/-- A container of 32-bit lanes, lane 0 first. -/
def ps : List (BitVec 32) → Container
  | [] => 0#512
  | v :: l => v.setWidth 512 ||| (ps l <<< 32)

/-- A container of 64-bit lanes, lane 0 first. -/
def pd : List (BitVec 64) → Container
  | [] => 0#512
  | v :: l => v.setWidth 512 ||| (pd l <<< 64)

/-- The step answers this RESULT and these FINAL_FLAGS, with no fault. -/
def answers (s : State) (r : Container) (fl : Flags) : Bool :=
  match step s with
  | .next t => t.result == r && t.finalFlags == fl && !t.fault
  | _ => false

/-- The step answers this KRESULT and these FINAL_FLAGS, with no fault. -/
def answersMask (s : State) (kr : MaskWord) (fl : Flags) : Bool :=
  match step s with
  | .next t => t.kresult == kr && t.finalFlags == fl && !t.fault
  | _ => false

/-- The step answers FAULT = 1 with these FINAL_FLAGS and this CTRL_OUT. -/
def faults (s : State) (fl : Flags) (out : CtrlWord) : Bool :=
  match step s with
  | .next t => t.fault && t.finalFlags == fl && t.ctrlOut == out
  | _ => false

/-- 44_lanes_masking.md R205. -/
theorem test_add_ps_merge :
    answers (port 0x00000200#32 0x1F80#16 (ps [0x3F800000#32, 0x3F800000#32, 0x3F800000#32, 0x3F800000#32]) (ps [0x40000000#32, 0x40000000#32, 0x40000000#32, 0x40000000#32]) 0#512
      (ps [0x41100000#32, 0x41100000#32, 0x41100000#32, 0x41100000#32]) 0x00000005#32) (ps [0x40400000#32, 0x41100000#32, 0x40400000#32, 0x41100000#32]) 0x00#6 = true := by decide +kernel
/-- 44_lanes_masking.md R205, the zeroing form. -/
theorem test_add_ps_zero :
    answers (port 0x00000600#32 0x1F80#16 (ps [0x3F800000#32, 0x3F800000#32, 0x3F800000#32, 0x3F800000#32]) (ps [0x40000000#32, 0x40000000#32, 0x40000000#32, 0x40000000#32]) 0#512
      (ps [0x41100000#32, 0x41100000#32, 0x41100000#32, 0x41100000#32]) 0x00000005#32) (ps [0x40400000#32, 0x00000000#32, 0x40400000#32, 0x00000000#32]) 0x00#6 = true := by decide +kernel
/-- 44_lanes_masking.md R205, the scalar form: upper lanes zero. -/
theorem test_add_ss_scalar :
    answers (port 0x00000240#32 0x1F80#16 (ps [0x3F800000#32, 0x3F800000#32, 0x3F800000#32, 0x3F800000#32]) (ps [0x40000000#32, 0x40000000#32, 0x40000000#32, 0x40000000#32]) 0#512
      (ps [0x41100000#32, 0x41100000#32, 0x41100000#32, 0x41100000#32]) 0x00000005#32) (ps [0x40400000#32]) 0x00#6 = true := by decide +kernel
/-- 95_test_vectors.md 2.1: a tie from an odd significand. -/
theorem test_add_ss_tie :
    answers (port 0x00000040#32 0x1F80#16 (ps [0x3F800001#32]) (ps [0x33800000#32]) 0#512
      0#512 0x00000000#32) (ps [0x3F800002#32]) 0x20#6 = true := by decide +kernel
/-- 95_test_vectors.md 2.6: 1.0 + 2^-53 under RU. -/
theorem test_add_sd_ru :
    answers (port 0x00000060#32 0x5F80#16 (pd [0x3FF0000000000000#64]) (pd [0x3CA0000000000000#64]) 0#512
      0#512 0x00000000#32) (pd [0x3FF0000000000001#64]) 0x20#6 = true := by decide +kernel
/-- 95_test_vectors.md 2.6: overflow. -/
theorem test_add_sd_overflow :
    answers (port 0x00000060#32 0x1F80#16 (pd [0x7FEFFFFFFFFFFFFF#64]) (pd [0x7FEFFFFFFFFFFFFF#64]) 0#512
      0#512 0x00000000#32) (pd [0x7FF0000000000000#64]) 0x28#6 = true := by decide +kernel
/-- 95_test_vectors.md 2.1: FZ, a negative tiny result. -/
theorem test_sub_ss_flush :
    answers (port 0x00000041#32 0x9F80#16 (ps [0x00800000#32]) (ps [0x00800001#32]) 0#512
      0#512 0x00000000#32) (ps [0x80000000#32]) 0x30#6 = true := by decide +kernel
/-- 95_test_vectors.md 2.1: FZ set but U unmasked, so SC.fuz = 0: fault. -/
theorem test_sub_ss_unmasked_underflow :
    faults (port 0x00000041#32 0x9780#16 (ps [0x00800001#32]) (ps [0x00800000#32]) 0#512
      0#512 0x00000000#32) 0x10#6 0x9790#16 = true := by decide +kernel
/-- 95_test_vectors.md 2.6: x - x under RD. -/
theorem test_sub_sd_zero_rd :
    answers (port 0x00000061#32 0x3F80#16 (pd [0x3FF0000000000000#64]) (pd [0x3FF0000000000000#64]) 0#512
      0#512 0x00000000#32) (pd [0x8000000000000000#64]) 0x00#6 = true := by decide +kernel
/-- 95_test_vectors.md V14: eight lanes. -/
theorem test_sub_pd_512 :
    answers (port 0x00000121#32 0x1F80#16 (pd [0x3FF0000000000000#64, 0x4000000000000000#64, 0x4008000000000000#64, 0x4010000000000000#64, 0x4014000000000000#64, 0x4018000000000000#64, 0x401C000000000000#64, 0x4020000000000000#64]) (pd [0x3FF0000000000000#64, 0x3FF0000000000000#64, 0x3FF0000000000000#64, 0x3FF0000000000000#64, 0x3FF0000000000000#64, 0x3FF0000000000000#64, 0x3FF0000000000000#64, 0x3FF0000000000000#64]) 0#512
      0#512 0x00000000#32) (pd [0x0000000000000000#64, 0x3FF0000000000000#64, 0x4000000000000000#64, 0x4008000000000000#64, 0x4010000000000000#64, 0x4014000000000000#64, 0x4018000000000000#64, 0x401C000000000000#64]) 0x00#6 = true := by decide +kernel
/-- 95_test_vectors.md S2. -/
theorem test_mul_ps_merge :
    answers (port 0x00000202#32 0x1F80#16 (ps [0x40000000#32, 0x40000000#32, 0x40000000#32, 0x40000000#32]) (ps [0x40400000#32, 0x40400000#32, 0x40400000#32, 0x40400000#32]) 0#512
      (ps [0x41100000#32, 0x41100000#32, 0x41100000#32, 0x41100000#32]) 0x00000006#32) (ps [0x41100000#32, 0x40C00000#32, 0x40C00000#32, 0x41100000#32]) 0x00#6 = true := by decide +kernel
/-- 95_test_vectors.md 2.2: tiny and inexact, tie to even. -/
theorem test_mul_ss_denormal :
    answers (port 0x00000042#32 0x1F80#16 (ps [0x00800001#32]) (ps [0x3F000000#32]) 0#512
      0#512 0x00000000#32) (ps [0x00400000#32]) 0x30#6 = true := by decide +kernel
/-- 95_test_vectors.md 2.2: DAZ makes it 0 * inf. -/
theorem test_mul_ss_daz :
    answers (port 0x00000042#32 0x1FC0#16 (ps [0x00000001#32]) (ps [0x7F800000#32]) 0#512
      0#512 0x00000000#32) (ps [0xFFC00000#32]) 0x01#6 = true := by decide +kernel
/-- 95_test_vectors.md 2.6: 3.0 * 0.1. -/
theorem test_mul_sd_round :
    answers (port 0x00000062#32 0x1F80#16 (pd [0x4008000000000000#64]) (pd [0x3FB999999999999A#64]) 0#512
      0#512 0x00000000#32) (pd [0x3FD3333333333334#64]) 0x20#6 = true := by decide +kernel
/-- 95_test_vectors.md S9. -/
theorem test_div_ss_by_zero_faults :
    faults (port 0x00000043#32 0x1D80#16 (ps [0x3F800000#32]) (ps [0x00000000#32]) 0#512
      0#512 0x00000000#32) 0x04#6 0x1D84#16 = true := by decide +kernel
/-- 95_test_vectors.md 2.2: 1 / 2^-149. -/
theorem test_div_ss_overflow_denormal :
    answers (port 0x00000043#32 0x1F80#16 (ps [0x3F800000#32]) (ps [0x00000001#32]) 0#512
      0#512 0x00000000#32) (ps [0x7F800000#32]) 0x2A#6 = true := by decide +kernel
/-- 95_test_vectors.md 2.7: flags of different lanes, Z unmasked: narrowed. -/
theorem test_div_ps_flags_ored :
    faults (port 0x00000003#32 0x1D80#16 (ps [0x3F800000#32, 0x3F800000#32, 0x3F800000#32, 0x3F800000#32]) (ps [0x40400000#32, 0x40000000#32, 0x00000000#32, 0x40000000#32]) 0#512
      0#512 0x00000000#32) 0x04#6 0x1D84#16 = true := by decide +kernel
/-- 95_test_vectors.md 2.7: masked I is kept beside an unmasked Z, P dropped. -/
theorem test_div_ps_class_kept :
    faults (port 0x00000003#32 0x1D80#16 (ps [0x3F800000#32, 0x00000000#32, 0x3F800000#32, 0x3F800000#32]) (ps [0x40400000#32, 0x00000000#32, 0x00000000#32, 0x40000000#32]) 0#512
      0#512 0x00000000#32) 0x05#6 0x1D85#16 = true := by decide +kernel
/-- 95_test_vectors.md 2.6: 2/3 under RZ. -/
theorem test_div_sd_rz :
    answers (port 0x00000063#32 0x7F80#16 (pd [0x4000000000000000#64]) (pd [0x4008000000000000#64]) 0#512
      0#512 0x00000000#32) (pd [0x3FE5555555555555#64]) 0x20#6 = true := by decide +kernel
/-- 95_test_vectors.md 3.4 step 1. -/
theorem test_div_pd_specials :
    answers (port 0x000000A3#32 0x1F80#16 (pd [0x3FF0000000000000#64, 0x0000000000000000#64, 0xC010000000000000#64, 0x7FF0000000000000#64]) (pd [0x0000000000000000#64, 0x0000000000000000#64, 0x4000000000000000#64, 0x7FF0000000000000#64]) 0#512
      0#512 0x00000000#32) (pd [0x7FF0000000000000#64, 0xFFF8000000000000#64, 0xC000000000000000#64, 0xFFF8000000000000#64]) 0x05#6 = true := by decide +kernel
/-- 95_test_vectors.md 2.3: a signaling second operand is returned signaling. -/
theorem test_min_ss_nan_second :
    answers (port 0x00000044#32 0x1F80#16 (ps [0x3F800000#32]) (ps [0x7F800001#32]) 0#512
      0#512 0x00000000#32) (ps [0x7F800001#32]) 0x01#6 = true := by decide +kernel
/-- 95_test_vectors.md 2.3: equal, the second, -0. -/
theorem test_min_ss_zeros :
    answers (port 0x00000044#32 0x1F80#16 (ps [0x00000000#32]) (ps [0x80000000#32]) 0#512
      0#512 0x00000000#32) (ps [0x80000000#32]) 0x00#6 = true := by decide +kernel
/-- 95_test_vectors.md 2.6: equal, the second. -/
theorem test_min_sd_zeros :
    answers (port 0x00000064#32 0x1F80#16 (pd [0x8000000000000000#64]) (pd [0x0000000000000000#64]) 0#512
      0#512 0x00000000#32) (pd [0x0000000000000000#64]) 0x00#6 = true := by decide +kernel
/-- 95_test_vectors.md 2.3: -2^-149 below -0. -/
theorem test_max_ss_denormal :
    answers (port 0x00000045#32 0x1F80#16 (ps [0x80000001#32]) (ps [0x80000000#32]) 0#512
      0#512 0x00000000#32) (ps [0x80000000#32]) 0x02#6 = true := by decide +kernel
/-- 95_test_vectors.md 2.6: the second, I. -/
theorem test_max_sd_nan_first :
    answers (port 0x00000065#32 0x1F80#16 (pd [0x7FF8000000000000#64]) (pd [0x4000000000000000#64]) 0#512
      0#512 0x00000000#32) (pd [0x4000000000000000#64]) 0x01#6 = true := by decide +kernel
/-- 95_test_vectors.md V15: sixteen lanes, a merged lane copied as bits. -/
theorem test_max_ps_512_merge :
    answers (port 0x00000305#32 0x1F80#16 (ps [0x00000000#32, 0x3F800000#32, 0x40000000#32, 0x40400000#32, 0x40800000#32, 0x40A00000#32, 0x40C00000#32, 0x40E00000#32, 0x41000000#32, 0x41100000#32, 0x41200000#32, 0x41300000#32, 0x41400000#32, 0x41500000#32, 0x41600000#32, 0x41700000#32]) (ps [0x40F00000#32, 0x40F00000#32, 0x40F00000#32, 0x40F00000#32, 0x40F00000#32, 0x40F00000#32, 0x40F00000#32, 0x40F00000#32, 0x40F00000#32, 0x40F00000#32, 0x40F00000#32, 0x40F00000#32, 0x40F00000#32, 0x40F00000#32, 0x40F00000#32, 0x40F00000#32]) 0#512
      (ps [0xDEADBEEF#32, 0xDEADBEEF#32, 0xDEADBEEF#32, 0xDEADBEEF#32, 0xDEADBEEF#32, 0xDEADBEEF#32, 0xDEADBEEF#32, 0xDEADBEEF#32, 0xDEADBEEF#32, 0xDEADBEEF#32, 0xDEADBEEF#32, 0xDEADBEEF#32, 0xDEADBEEF#32, 0xDEADBEEF#32, 0xDEADBEEF#32, 0xDEADBEEF#32]) 0x000000FF#32) (ps [0x40F00000#32, 0x40F00000#32, 0x40F00000#32, 0x40F00000#32, 0x40F00000#32, 0x40F00000#32, 0x40F00000#32, 0x40F00000#32, 0xDEADBEEF#32, 0xDEADBEEF#32, 0xDEADBEEF#32, 0xDEADBEEF#32, 0xDEADBEEF#32, 0xDEADBEEF#32, 0xDEADBEEF#32, 0xDEADBEEF#32]) 0x00#6 = true := by decide +kernel
/-- 95_test_vectors.md 2.4: sqrt(2) under RU. -/
theorem test_sqrt_ss_ru :
    answers (port 0x00000046#32 0x5F80#16 (ps [0x40000000#32]) 0#512 0#512
      0#512 0x00000000#32) (ps [0x3FB504F4#32]) 0x20#6 = true := by decide +kernel
/-- 95_test_vectors.md 2.4: invalid, and no D. -/
theorem test_sqrt_ss_negative_denormal :
    answers (port 0x00000046#32 0x1F80#16 (ps [0x80000001#32]) 0#512 0#512
      0#512 0x00000000#32) (ps [0xFFC00000#32]) 0x01#6 = true := by decide +kernel
/-- 95_test_vectors.md 2.6: sqrt(2). -/
theorem test_sqrt_sd_round :
    answers (port 0x00000066#32 0x1F80#16 (pd [0x4000000000000000#64]) 0#512 0#512
      0#512 0x00000000#32) (pd [0x3FF6A09E667F3BCD#64]) 0x20#6 = true := by decide +kernel
/-- 95_test_vectors.md 2.6: 2^-537 exactly. -/
theorem test_sqrt_sd_denormal :
    answers (port 0x00000066#32 0x1F80#16 (pd [0x0000000000000001#64]) 0#512 0#512
      0#512 0x00000000#32) (pd [0x1E60000000000000#64]) 0x02#6 = true := by decide +kernel
/-- 95_test_vectors.md V16. -/
theorem test_fmadd_ps_merge :
    answers (port 0x00000207#32 0x1F80#16 (ps [0x3F800000#32, 0x40000000#32, 0x40400000#32, 0x40800000#32]) (ps [0x41200000#32, 0x41A00000#32, 0x41F00000#32, 0x42200000#32]) (ps [0x3F000000#32, 0x3F000000#32, 0x3F000000#32, 0x3F000000#32])
      (ps [0xBF800000#32, 0xC0000000#32, 0xC0400000#32, 0xC0800000#32]) 0x00000003#32) (ps [0x41280000#32, 0x42220000#32, 0xC0400000#32, 0xC0800000#32]) 0x00#6 = true := by decide +kernel
/-- 95_test_vectors.md 2.5: one rounding, 2^-24 exactly. -/
theorem test_fmadd_ss_single_rounding :
    answers (port 0x00000047#32 0x1F80#16 (ps [0x3F800800#32]) (ps [0x3F800800#32]) (ps [0xBF801000#32])
      0#512 0x00000000#32) (ps [0x33800000#32]) 0x00#6 = true := by decide +kernel
/-- 95_test_vectors.md 2.5: 0 * inf with a quiet NaN addend. -/
theorem test_fmadd_ss_nan_addend :
    answers (port 0x00000047#32 0x1F80#16 (ps [0x00000000#32]) (ps [0x7F800000#32]) (ps [0x7FC00000#32])
      0#512 0x00000000#32) (ps [0x7FC00000#32]) 0x00#6 = true := by decide +kernel
/-- 95_test_vectors.md 2.6: 2^-52 exactly. -/
theorem test_fmadd_sd_exact :
    answers (port 0x00000067#32 0x1F80#16 (pd [0x3FF0000004000000#64]) (pd [0x3FF0000004000000#64]) (pd [0xBFF0000008000000#64])
      0#512 0x00000000#32) (pd [0x3CB0000000000000#64]) 0x00#6 = true := by decide +kernel
/-- 95_test_vectors.md 2.5: 2*3 - 1. -/
theorem test_fmsub_ss_sum :
    answers (port 0x00000048#32 0x1F80#16 (ps [0x40000000#32]) (ps [0x40400000#32]) (ps [0x3F800000#32])
      0#512 0x00000000#32) (ps [0x40A00000#32]) 0x00#6 = true := by decide +kernel
/-- 95_test_vectors.md 2.6: a signaling NaN multiplicand. -/
theorem test_fmsub_sd_snan :
    answers (port 0x00000068#32 0x1F80#16 (pd [0x7FF0000000000001#64]) (pd [0x3FF0000000000000#64]) (pd [0x3FF0000000000000#64])
      0#512 0x00000000#32) (pd [0x7FF8000000000001#64]) 0x01#6 = true := by decide +kernel
/-- 95_test_vectors.md 2.5: -(2*3) + 1. -/
theorem test_fnmadd_ss_sum :
    answers (port 0x00000049#32 0x1F80#16 (ps [0x40000000#32]) (ps [0x40400000#32]) (ps [0x3F800000#32])
      0#512 0x00000000#32) (ps [0xC0A00000#32]) 0x00#6 = true := by decide +kernel
/-- 95_test_vectors.md 2.5: -(inf*1) and +inf: invalid. -/
theorem test_fnmadd_ss_inf :
    answers (port 0x00000049#32 0x1F80#16 (ps [0x7F800000#32]) (ps [0x3F800000#32]) (ps [0x7F800000#32])
      0#512 0x00000000#32) (ps [0xFFC00000#32]) 0x01#6 = true := by decide +kernel
/-- 95_test_vectors.md 2.5: terms -1 and +1 under RD: -0. -/
theorem test_fnmsub_ss_cancel_rd :
    answers (port 0x0000004A#32 0x3F80#16 (ps [0x3F800000#32]) (ps [0x3F800000#32]) (ps [0xBF800000#32])
      0#512 0x00000000#32) (ps [0x80000000#32]) 0x00#6 = true := by decide +kernel
/-- 95_test_vectors.md 2.6: -(2*3) - 1. -/
theorem test_fnmsub_sd_sum :
    answers (port 0x0000006A#32 0x1F80#16 (pd [0x4000000000000000#64]) (pd [0x4008000000000000#64]) (pd [0x3FF0000000000000#64])
      0#512 0x00000000#32) (pd [0xC01C000000000000#64]) 0x00#6 = true := by decide +kernel
/-- 45_classify_fixup.md R224, the first example. -/
theorem test_fixupimm_ss_zero_token :
    answers (port 0x0001004B#32 0x1F80#16 (ps [0x00000000#32]) (ps [0x00000500#32]) 0#512
      0#512 0x00000000#32) (ps [0x7F800000#32]) 0x04#6 = true := by decide +kernel
/-- 45_classify_fixup.md R224, the second example. -/
theorem test_fixupimm_ss_one_token :
    answers (port 0x0000004B#32 0x1F80#16 (ps [0x3F800000#32]) (ps [0x0000B000#32]) 0#512
      0#512 0x00000000#32) (ps [0x3F000000#32]) 0x00#6 = true := by decide +kernel
/-- 96_test_vectors_families.md V23: one response operand a lane, DPRIOR read without a mask. -/
theorem test_fixupimm_pd_lanes :
    answers (port 0x000100AB#32 0x1F80#16 (pd [0x4000000000000000#64, 0x0000000000000000#64, 0x7FF0000000000001#64, 0x3FF0000000000000#64]) (pd [0x00A0351300000000#64, 0xFFFFFFFF00000500#64, 0x0000000000000030#64, 0x000000000000B000#64]) 0#512
      (pd [0x4022000000000000#64, 0x4022000000000000#64, 0x4022000000000000#64, 0x4022000000000000#64]) 0x00000000#32) (pd [0x4022000000000000#64, 0x7FF0000000000000#64, 0xFFF8000000000000#64, 0x3FE0000000000000#64]) 0x04#6 = true := by decide +kernel
/-- 96_test_vectors_families.md 2.10: -inf with imm8[5], I unmasked. -/
theorem test_fixupimm_ss_unmasked_request :
    faults (port 0x0020004B#32 0x1F00#16 (ps [0xFF800000#32]) (ps [0x00000000#32]) 0#512
      (ps [0x12345678#32]) 0x00000000#32) 0x01#6 0x1F01#16 = true := by decide +kernel
/-- 95_test_vectors.md V19: no I for the signaling NaN although I is unmasked. -/
theorem test_fpclass_ps :
    answersMask (port 0x0099000C#32 0x1F00#16 (ps [0x7FC00000#32, 0x7F800001#32, 0x7F800000#32, 0xBF800000#32]) 0#512 0#512
      0#512 0x00000000#32) 0x00000007#32 0x00#6 = true := by decide +kernel
/-- 95_test_vectors.md S10. -/
theorem test_fpclass_ss_quiet :
    answersMask (port 0x00FE004C#32 0x1F80#16 (ps [0x7FC00000#32]) 0#512 0#512
      0#512 0x00000000#32) 0x00000000#32 0x00#6 = true := by decide +kernel
/-- 96_test_vectors_families.md 2.9: a negative denormal under DAZ is -0. -/
theorem test_fpclass_sd_denormal_daz :
    answersMask (port 0x0060006C#32 0x1FC0#16 (pd [0x800FFFFFFFFFFFFF#64]) 0#512 0#512
      0#512 0x00000000#32) 0x00000000#32 0x00#6 = true := by decide +kernel
/-- 46_getexp_getmant.md R240: -149.0 with D. -/
theorem test_getexp_ss_denormal :
    answers (port 0x0000004D#32 0x1F80#16 (ps [0x00000001#32]) 0#512 0#512
      0#512 0x00000000#32) (ps [0xC3150000#32]) 0x02#6 = true := by decide +kernel
/-- 46_getexp_getmant.md R240: minus infinity, no Z. -/
theorem test_getexp_ss_zero :
    answers (port 0x0000004D#32 0x1F80#16 (ps [0x00000000#32]) 0#512 0#512
      0#512 0x00000000#32) (ps [0xFF800000#32]) 0x00#6 = true := by decide +kernel
/-- 95_test_vectors.md 2.6: -1074.0 with D. -/
theorem test_getexp_sd_denormal :
    answers (port 0x0000006D#32 0x1F80#16 (pd [0x0000000000000001#64]) 0#512 0#512
      0#512 0x00000000#32) (pd [0xC090C80000000000#64]) 0x02#6 = true := by decide +kernel
/-- 96_test_vectors_families.md 2.11: a denormal into [3/4, 3/2). -/
theorem test_getmant_ss_interval_3 :
    answers (port 0x0003004E#32 0x1F80#16 (ps [0x00600000#32]) 0#512 0#512
      0#512 0x00000000#32) (ps [0x3F400000#32]) 0x02#6 = true := by decide +kernel
/-- 46_getexp_getmant.md R244: -3.0, code 3. -/
theorem test_getmant_ss_flip :
    answers (port 0x000C004E#32 0x1F80#16 (ps [0xC0400000#32]) 0#512 0#512
      0#512 0x00000000#32) (ps [0x3FC00000#32]) 0x00#6 = true := by decide +kernel
/-- 95_test_vectors.md 2.6: [1/2, 1). -/
theorem test_getmant_sd_interval_2 :
    answers (port 0x0002006E#32 0x1F80#16 (pd [0x4024000000000000#64]) 0#512 0#512
      0#512 0x00000000#32) (pd [0x3FE4000000000000#64]) 0x00#6 = true := by decide +kernel
/-- 96_test_vectors_families.md 2.12: a quiet NaN second, the sign of a applied to it. -/
theorem test_range_ss_sign_of_a :
    answers (port 0x0000004F#32 0x1F80#16 (ps [0x40400000#32]) (ps [0xFFC00001#32]) 0#512
      0#512 0x00000000#32) (ps [0x7FC00001#32]) 0x00#6 = true := by decide +kernel
/-- 96_test_vectors_families.md 2.12: a signaling NaN first, sign not overridden. -/
theorem test_range_ss_snan :
    answers (port 0x000C004F#32 0x1F80#16 (ps [0x7F800001#32]) (ps [0x40400000#32]) 0#512
      0#512 0x00000000#32) (ps [0x40400000#32]) 0x01#6 = true := by decide +kernel
/-- 95_test_vectors.md 2.6: min of absolute values, own sign. -/
theorem test_range_sd_abs_min :
    answers (port 0x0006006F#32 0x1F80#16 (pd [0x3FF0000000000000#64]) (pd [0xC000000000000000#64]) 0#512
      0#512 0x00000000#32) (pd [0x3FF0000000000000#64]) 0x00#6 = true := by decide +kernel
/-- 96_test_vectors_families.md 2.13: a denormal under RU. -/
theorem test_reduce_ss_directed :
    answers (port 0x00020050#32 0x1F80#16 (ps [0x00000001#32]) 0#512 0#512
      0#512 0x00000000#32) (ps [0xBF7FFFFF#32]) 0x22#6 = true := by decide +kernel
/-- 96_test_vectors_families.md 2.13: already a multiple, under override RD: -0. -/
theorem test_reduce_ss_multiple_rd :
    answers (port 0x00210050#32 0x1F80#16 (ps [0x40300000#32]) 0#512 0#512
      0#512 0x00000000#32) (ps [0x80000000#32]) 0x00#6 = true := by decide +kernel
/-- 95_test_vectors.md 2.6: 2.75 - 3.0. -/
theorem test_reduce_sd_round :
    answers (port 0x00000070#32 0x1F80#16 (pd [0x4006000000000000#64]) 0#512 0#512
      0#512 0x00000000#32) (pd [0xBFD0000000000000#64]) 0x20#6 = true := by decide +kernel
/-- 48_round_reduce_scalef.md R262: M = 4, RN. -/
theorem test_rndscale_ss_scale :
    answers (port 0x00400051#32 0x1F80#16 (ps [0x3FA66666#32]) 0#512 0#512
      0#512 0x00000000#32) (ps [0x3FA80000#32]) 0x20#6 = true := by decide +kernel
/-- 96_test_vectors_families.md 2.13: spe with P unmasked: no fault. -/
theorem test_rndscale_ss_suppress :
    answers (port 0x00080051#32 0x0F80#16 (ps [0x40200000#32]) 0#512 0#512
      0#512 0x00000000#32) (ps [0x40000000#32]) 0x00#6 = true := by decide +kernel
/-- 95_test_vectors.md 2.6: RU by override. -/
theorem test_rndscale_sd_ru :
    answers (port 0x00020071#32 0x1F80#16 (pd [0x4004000000000000#64]) 0#512 0#512
      0#512 0x00000000#32) (pd [0x4008000000000000#64]) 0x20#6 = true := by decide +kernel
/-- 48_round_reduce_scalef.md R268: 1.5 * 2^-150. -/
theorem test_scalef_ss_tie :
    answers (port 0x00000052#32 0x1F80#16 (ps [0x3FC00000#32]) (ps [0xC3160000#32]) 0#512
      0#512 0x00000000#32) (ps [0x00000001#32]) 0x30#6 = true := by decide +kernel
/-- 48_round_reduce_scalef.md R268: -3.0 by 2^(-1e30). -/
theorem test_scalef_ss_huge :
    answers (port 0x00000052#32 0x1F80#16 (ps [0xC0400000#32]) (ps [0xF149F2CA#32]) 0#512
      0#512 0x00000000#32) (ps [0x80000000#32]) 0x30#6 = true := by decide +kernel
/-- 95_test_vectors.md 2.6: the smallest denormal, exact. -/
theorem test_scalef_sd_denormal :
    answers (port 0x00000072#32 0x1F80#16 (pd [0x3FF0000000000000#64]) (pd [0xC090C80000000000#64]) 0#512
      0#512 0x00000000#32) (pd [0x0000000000000001#64]) 0x00#6 = true := by decide +kernel
/-- 49_compare.md R284: NLT_US. -/
theorem test_cmp_ps_nlt_us :
    answersMask (port 0x00050013#32 0x1F80#16 (ps [0x3F800000#32, 0x40000000#32, 0x7FC00000#32, 0x40400000#32]) (ps [0x40000000#32, 0x40000000#32, 0x40000000#32, 0x3F800000#32]) 0#512
      0#512 0x00000000#32) 0x0000000E#32 0x01#6 = true := by decide +kernel
/-- 95_test_vectors.md V17: a masked compare, LT_OQ. -/
theorem test_cmp_ps_masked :
    answersMask (port 0x00110213#32 0x1F80#16 (ps [0x3F800000#32, 0x40000000#32, 0x7FC00000#32, 0x40400000#32]) (ps [0x40000000#32, 0x40000000#32, 0x40000000#32, 0x3F800000#32]) 0#512
      0#512 0x0000000D#32) 0x00000001#32 0x00#6 = true := by decide +kernel
/-- 96_test_vectors_families.md 2.15: GT_OS, DAZ makes them equal. -/
theorem test_cmp_ss_daz :
    answersMask (port 0x000E0053#32 0x1FC0#16 (ps [0x00000001#32]) (ps [0x00000000#32]) 0#512
      0#512 0x00000000#32) 0x00000000#32 0x00#6 = true := by decide +kernel
/-- 96_test_vectors_families.md 2.15: a signaling predicate, I unmasked. -/
theorem test_cmp_ss_signaling_faults :
    faults (port 0x00010053#32 0x1F00#16 (ps [0x7FC00000#32]) (ps [0x3F800000#32]) 0#512
      0#512 0x00000000#32) 0x01#6 0x1F01#16 = true := by decide +kernel
/-- 95_test_vectors.md V18: bit 0 only. -/
theorem test_cmp_sd_ge :
    answersMask (port 0x000D0073#32 0x1F80#16 (pd [0x4000000000000000#64, 0x4022000000000000#64]) (pd [0x4000000000000000#64, 0x3FF0000000000000#64]) 0#512
      0#512 0x00000000#32) 0x00000001#32 0x00#6 = true := by decide +kernel

/-- The eight worked cases of 43_status_context.md R180. -/
theorem test_merge_back_cases :
    mergeOutcome 0x1F80#16 0x20#6 0x00#6 = (0x20#6, false, 0x1FA0#16) ∧
    mergeOutcome 0x1F80#16 0x20#6 0x20#6 = (0x00#6, false, 0x1F80#16) ∧
    mergeOutcome 0x1D80#16 0x04#6 0x00#6 = (0x04#6, true, 0x1D84#16) ∧
    mergeOutcome 0x1D80#16 0x24#6 0x00#6 = (0x04#6, true, 0x1D84#16) ∧
    mergeOutcome 0x1D80#16 0x2D#6 0x00#6 = (0x05#6, true, 0x1D85#16) ∧
    mergeOutcome 0x0F80#16 0x22#6 0x00#6 = (0x22#6, true, 0x0FA2#16) ∧
    mergeOutcome 0x0F80#16 0x20#6 0x20#6 = (0x00#6, false, 0x0F80#16) ∧
    mergeOutcome 0x1FBF#16 0x00#6 0x00#6 = (0x00#6, false, 0x1FBF#16) := by decide

/-- After reset FPCORE waits (70_reset_and_hazards.md R343). -/
theorem test_reset_waits : step State.reset = .next State.reset := rfl

/-- A reserved command is refused by name (30_encoding.md R75). -/
theorem test_reserved_command_refused (s : State) :
    step (s.withFetchWord 32 0x14) = .refused (.reservedCommand (.operation 20#5)) := rfl

/-- A row's word is the command the next step runs (30_encoding.md R71). -/
theorem test_fetch_word_runs (s : State) :
    step (s.withFetchWord 32 0x43) = execDivSs ⟨.v128, false, false, 0#8⟩ (s.withFetchWord 32 0x43) := rfl

/-! ### The harness of 92_eei_decisions.md D41 -/

/-- Containers 0 (`1.0`) and 1 (`0.0`), destination 2 (`9.0`), under a control register, with one scalar divide to run. -/
def bench (ctrl : CtrlWord) : Harness where
  core := { State.reset with ctrl := ctrl }
  containers := [(0, ⟨.v128, ps [0x3F800000#32]⟩), (1, ⟨.v128, 0#512⟩), (2, ⟨.v128, ps [0x41100000#32]⟩)]
  masks := []
  program := [.command 0x00000043#32 2 0 1 0 0]
  stopped := false

/-- What container 2 holds after the program, and whether the run is stopped. -/
def benchEnd (ctrl : CtrlWord) : Option (Option SizedContainer × Bool × CtrlWord) :=
  match (bench ctrl).run 1 with
  | .next g => some (lookupName 2 g.containers, g.stopped, g.core.ctrl)
  | _ => none

/-- With Z unmasked the divide faults: the destination keeps its value and the flag is merged (60_exceptions.md R312, R314). -/
theorem test_harness_fault : benchEnd 0x1D80#16 = some (some ⟨.v128, ps [0x41100000#32]⟩, true, 0x1D84#16) := by
  decide +kernel

/-- With Z masked the infinity is stored (60_exceptions.md R314). -/
theorem test_harness_store : benchEnd 0x1F80#16 = some (some ⟨.v128, ps [0x7F800000#32]⟩, false, 0x1F84#16) := by
  decide +kernel

/-- A run that a fault has stopped is stuck (93_implementation_defined.md P14). -/
theorem test_harness_stuck (h : Harness) : ({ h with stopped := true } : Harness).step = .fault .stoppedByFpFault := rfl

/-- A required operand that is not there is refused (93_implementation_defined.md P11). -/
theorem test_harness_missing_operand :
    ({ bench 0x1F80#16 with containers := [(0, ⟨.v128, 0#512⟩)] } : Harness).step = .refused .operandNotPresented := rfl

/-! ### Witnesses: for every statement with hypotheses, values that meet them all -/

/-- Operand fields without a mask: 128 bits, no immediate. -/
def plain : Fields := ⟨.v128, false, false, 0#8⟩

/-- Operand fields with a mask operand and the Merge policy. -/
def masked : Fields := ⟨.v128, true, false, 0#8⟩

/-- A state whose lane 0 of A, B and C holds given single-precision values, under a control register. -/
def lanes (ctrl : CtrlWord) (a b c : BitVec 32) : State :=
  { State.reset with ctrl := ctrl, a := a.setWidth 512, b := b.setWidth 512, c := c.setWidth 512 }

/-- A state whose lane 0 of A and B holds given double-precision values. -/
def lanes64 (ctrl : CtrlWord) (a b : BitVec 64) : State :=
  { State.reset with ctrl := ctrl, a := a.setWidth 512, b := b.setWidth 512 }

/-- Without a mask, lane 0 of any command is active. -/
theorem active_plain (p : Prec) (form : Form) (s : State) : ActiveLane p form plain s 0 := by
  cases p <;> cases form <;> exact ⟨by decide, rfl⟩

/-- The last lane of a packed double command of 512 bits, its mask bit set: the boundary of `ActiveLane`. -/
theorem active_last_lane :
    ActiveLane .double .packed ⟨.v512, true, false, 0#8⟩ { State.reset with k := 0x80#32 } 7 := ⟨by decide, by decide⟩

/-- A Boolean test of every operand, as the statements say it. -/
theorem operands_finite {p : Prec} {op : Op} {s : State} {n : Nat} (h : (operands p op s n).all isFinite = true) :
    ∀ y ∈ operands p op s n, isFinite y = true := List.all_eq_true.1 h

/-- The same for operands that are no NaN. -/
theorem operands_not_nan {p : Prec} {op : Op} {s : State} {n : Nat} (h : (operands p op s n).any isNaN = false) :
    ∀ y ∈ operands p op s n, isNaN y = false := fun y hy => by simpa using List.any_eq_false.1 h y hy

/-- A rational value from its units. -/
theorem valQ_of_units {p : Prec} (v : Lane p) (n : ℤ) (h : valUnits v = n) : valQ v = (n : ℚ) * (2 : ℚ) ^ p.unitExp := by
  rw [valQ_eq_valUnits, h]

theorem witness_ReservedCommandsAreRefused :
    ({ State.reset with cmd := some 0x00000180#32 } : State).cmd = some 0x00000180#32 ∧
    decode 0x00000180#32 = .error .vectorLength := by decide +kernel

theorem witness_FieldsOfTheWord :
    decode 0x00FF07F2#32 = .error .vectorLength ∧
    decode 0x00FF0772#32 = .ok (.scalefSd ⟨.v512, true, true, 0xFF#8⟩) := by decide

theorem witness_StepRunsTheDecodedInstruction :
    ({ State.reset with cmd := some 0x00000043#32 } : State).cmd = some 0x00000043#32 ∧
    decode 0x00000043#32 = .ok (.divSs plain) := by decide +kernel

theorem witness_WaitsForACommand : State.reset.cmd = none := rfl

theorem witness_RoundingOverride : (0x0B#8).getLsbD 2 = false ∧ (0x0F#8).getLsbD 2 = true := by decide

/-- The first and the last flag. -/
theorem witness_MergeBack : 0 < 6 ∧ 5 < 6 := by decide

theorem witness_FrameOfEveryInstruction : ∃ t, exec (.addPs plain) State.reset = .next t := ⟨_, rfl⟩

theorem witness_PackedResultLanes : Op.fixupimm.isMask = false := rfl
theorem witness_ScalarResultLanes : Op.scalef.isMask = false ∧ 1 ≤ 15 ∧ 15 < VecLen.v512.bits / Prec.single.width := by decide
theorem witness_MaskResultBits : Op.cmp.isMask = true ∧ 31 < 32 := by decide

theorem witness_FullyMaskedCommandIsSilent :
    masked.maskEn = true ∧
    ∀ n < Form.packed.loopLanes masked.vl .single, ({ State.reset with k := 0xFFFFFFF0#32 } : State).k.getLsbD n = false := by
  decide +kernel

theorem witness_MaskFields : plain.maskEn = false ∧ Op.fpclass.isMask = true := by decide

/-- Two states that differ in an unread port, a masked-off lane and an unused mask bit agree where SUB reads. -/
theorem witness_ResponseDependsOnWhatIsRead :
    AgreeWhereRead .single .packed .sub masked
      { State.reset with k := 0x01#32 }
      { State.reset with k := 0x11#32, c := 5#512, a := 5#512 <<< 32, fault := true } := by
  refine ⟨rfl, fun n hn => ?_⟩
  have hn : n < 4 := hn
  interval_cases n <;> exact ⟨by decide +kernel, by decide +kernel, by decide +kernel⟩

theorem witness_UndefinedImmediateBitsIgnored :
    (0x21#8) &&& immediateRead .cmp = 0xE1#8 &&& immediateRead .cmp ∧
    (0xFF#8) &&& immediateRead .add = 0x00#8 &&& immediateRead .add := by decide

theorem witness_OldStickyFlagsChangeNothing :
    (0x1FBF#16).extractLsb' 6 10 = (lanes 0x1F80#16 0#32 0#32 0#32).ctrl.extractLsb' 6 10 ∧
    (commandContext .rndscale ⟨.v128, false, false, 0x08#8⟩ (lanes 0x1F80#16 0#32 0#32 0#32)).suppressFlags.getLsbD 5 =
      true := by decide +kernel

theorem witness_DenormalsAreZero :
    let s := lanes 0x1FC0#16 0x80000001#32 1#32 1#32
    let u := lanes 0x1FC0#16 0x80000000#32 0#32 0#32
    s.ctrl.getLsbD 6 = true ∧ u.ctrl = s.ctrl ∧ u.k = s.k ∧ u.dprior = s.dprior ∧
      ∀ n < Form.scalar.loopLanes .v128 .single,
        laneOf .single u.a n = flushDenormal true (laneOf .single s.a n) ∧
        laneOf .single u.b n =
          (if Op.add = .fixupimm then laneOf .single s.b n else flushDenormal true (laneOf .single s.b n)) ∧
        laneOf .single u.c n = flushDenormal true (laneOf .single s.c n) := by decide +kernel

/-- The clause about GETEXP: a zero in lane 0, and a response that does not fault. -/
theorem witness_DivideByZeroExactlyWhen :
    (∃ t, exec (.getexpSs plain) (lanes 0x1F80#16 0x80000000#32 0#32 0#32) = .next t ∧ t.fault = false) ∧
    ActiveLane .single .scalar plain (lanes 0x1F80#16 0x80000000#32 0#32 0#32) 0 ∧
    isZero (operandA .single (lanes 0x1F80#16 0x80000000#32 0#32 0#32) 0) = true :=
  ⟨⟨_, rfl, by decide +kernel⟩, active_plain _ _ _, by decide +kernel⟩

/-- Both clauses, the first with the NaN in the second operand only. -/
theorem witness_TwoOperandNaN :
    ActiveLane .single .scalar plain (lanes 0x1F80#16 0x3F800000#32 0x7F800001#32 0#32) 0 ∧
    isNaN (laneOf .single (lanes 0x1F80#16 0x3F800000#32 0x7F800001#32 0#32).b 0) = true ∧
    isNaN (laneOf .single (lanes 0x1F80#16 0xFFFFFFFF#32 0#32 0#32).a 0) = true :=
  ⟨active_plain _ _ _, by decide +kernel, by decide +kernel⟩

theorem witness_OneOperandNaN :
    ActiveLane .single .scalar plain (lanes 0x1F80#16 0x7F800001#32 0#32 0#32) 0 ∧
    isNaN (laneOf .single (lanes 0x1F80#16 0x7F800001#32 0#32 0#32).a 0) = true :=
  ⟨active_plain _ _ _, by decide +kernel⟩

theorem witness_ThreeOperandNaN :
    ActiveLane .single .scalar plain (lanes 0x1F80#16 0#32 0x7F800000#32 0x7FC00000#32) 0 ∧ isFma .fmadd ∧
    isNaN (laneOf .single (lanes 0x1F80#16 0#32 0x7F800000#32 0x7FC00000#32).c 0) = true :=
  ⟨active_plain _ _ _, .inl rfl, by decide +kernel⟩

/-- Single: 0 * inf. Double: 0 / 0. -/
theorem witness_InvalidGivesTheDefaultNaN :
    (let s := lanes 0x1F80#16 0x80000000#32 0x7F800000#32 0#32
     ActiveLane .single .scalar plain s 0 ∧ (∀ x ∈ operands .single .mul s 0, isNaN x = false) ∧
     InvalidOperands .mul (operandA .single s 0) (operandB .single s 0) (operandC .single s 0)) ∧
    (let s := lanes64 0x1F80#16 0#64 0x8000000000000000#64
     ActiveLane .double .scalar plain s 0 ∧ (∀ x ∈ operands .double .div s 0, isNaN x = false) ∧
     InvalidOperands .div (operandA .double s 0) (operandB .double s 0) (operandC .double s 0)) :=
  ⟨⟨active_plain _ _ _, operands_not_nan (by decide +kernel), .inl ⟨by decide +kernel, by decide +kernel⟩⟩,
   ⟨active_plain _ _ _, operands_not_nan (by decide +kernel), .inl ⟨by decide +kernel, by decide +kernel⟩⟩⟩

/-- A denormal dividend over zero. -/
theorem witness_SpecialOperands :
    let s := lanes 0x1F80#16 0x80000001#32 0#32 0#32
    ActiveLane .single .scalar plain s 0 ∧ (∀ x ∈ operands .single .div s 0, isNaN x = false) ∧
    ¬ InvalidOperands .div (operandA .single s 0) (operandB .single s 0) (operandC .single s 0) ∧
    specialValue .div (operandA .single s 0) (operandB .single s 0) (operandC .single s 0) = some (infinity true) := by
  refine ⟨active_plain _ _ _, operands_not_nan (by decide +kernel), ?_, by decide +kernel⟩
  unfold InvalidOperands
  decide +kernel

/-- The exact value of a division. -/
theorem operands_quotient (a b c : ℚ) : exactValue .div a b c = some (a / b) := rfl

/-- 1.0 / 3.0, every exception masked and flush-to-zero off. -/
theorem witness_ArithmeticIsCorrectlyRounded_quotient :
    let s := lanes 0x1F80#16 0x3F800000#32 0x40400000#32 0#32
    ActiveLane .single .scalar plain s 0 ∧ (∀ y ∈ operands .single .div s 0, isFinite y = true) ∧
    isZero (operandB .single s 0) = false ∧
    exactValue .div (valQ (operandA .single s 0)) (valQ (operandB .single s 0)) (valQ (operandC .single s 0)) =
      some (valQ (operandA .single s 0) / valQ (operandB .single s 0)) ∧
    (ambient s).fuz = false ∧ AllMasked s :=
  ⟨active_plain _ _ _, operands_finite (by decide +kernel), by decide +kernel, operands_quotient _ _ _,
    by decide +kernel, by unfold AllMasked; decide +kernel⟩

/-- The exact sum of two lanes from their units. -/
theorem sum_of_units {p : Prec} {a b : Lane p} (m n k z : ℤ) (ha : valUnits a = m) (hb : valUnits b = n)
    (h : ((m + n : ℤ) : ℚ) * (2 : ℚ) ^ p.unitExp = (k : ℚ) * (2 : ℚ) ^ z) : valQ a + valQ b = (k : ℚ) * (2 : ℚ) ^ z := by
  rw [valQ_of_units a m ha, valQ_of_units b n hb, ← h]
  push_cast
  ring

/-- The exact product of two lanes from their units. -/
theorem product_of_units {p : Prec} {a b : Lane p} (m n k z : ℤ) (ha : valUnits a = m) (hb : valUnits b = n)
    (h : ((m * n : ℤ) : ℚ) * ((2 : ℚ) ^ p.unitExp * (2 : ℚ) ^ p.unitExp) = (k : ℚ) * (2 : ℚ) ^ z) :
    valQ a * valQ b = (k : ℚ) * (2 : ℚ) ^ z := by
  rw [valQ_of_units a m ha, valQ_of_units b n hb, ← h]
  push_cast
  ring

/-- The scalar ADD or MUL whose lane 0 the next witnesses issue: the lane is active and its operands are finite. -/
def FiniteLane (op : Op) (s : State) : Prop :=
  ActiveLane .single .scalar plain s 0 ∧ ∀ y ∈ operands .single op s 0, isFinite y = true

/-- Overflow at its boundary under RN: the largest finite value plus half a unit of its last place, which takes 25 bits. With
`O` masked, and with `O` alone unmasked. -/
theorem witness_FlagsOfRounding_inexact_overflow :
    let s := lanes 0x1F80#16 0x7F7FFFFF#32 0x73000000#32 0#32
    let u := lanes 0x1B80#16 0x7F7FFFFF#32 0x73000000#32 0#32
    let x := valQ (operandA .single s 0) + valQ (operandB .single s 0)
    FiniteLane .add s ∧ AllMasked s ∧ FiniteLane .add u ∧ u.ctrl.getLsbD 10 = false ∧ u.ctrl.extractLsb' 7 3 = 7#3 ∧
    valQ (operandA .single u 0) + valQ (operandB .single u 0) = x ∧
    Overflows .single (ambient s).roundingMode x ∧ (ambient u).roundingMode = (ambient s).roundingMode ∧
    ¬ FitsPrecision .single x := by
  have hs := sum_of_units (a := operandA .single (lanes 0x1F80#16 0x7F7FFFFF#32 0x73000000#32 0#32) 0)
    (b := operandB .single (lanes 0x1F80#16 0x7F7FFFFF#32 0x73000000#32 0#32) 0) ((2 ^ 24 - 1) * 2 ^ 253) (2 ^ 252)
    (2 ^ 25 - 1) 103 (by decide +kernel) (by decide +kernel) (by norm_num [Prec.unitExp, Prec.emin, Prec.bias, Prec.fb])
  have hu := sum_of_units (a := operandA .single (lanes 0x1B80#16 0x7F7FFFFF#32 0x73000000#32 0#32) 0)
    (b := operandB .single (lanes 0x1B80#16 0x7F7FFFFF#32 0x73000000#32 0#32) 0) ((2 ^ 24 - 1) * 2 ^ 253) (2 ^ 252)
    (2 ^ 25 - 1) 103 (by decide +kernel) (by decide +kernel) (by norm_num [Prec.unitExp, Prec.emin, Prec.bias, Prec.fb])
  refine ⟨⟨active_plain _ _ _, operands_finite (by decide +kernel)⟩, by unfold AllMasked; decide +kernel,
    ⟨active_plain _ _ _, operands_finite (by decide +kernel)⟩, by decide +kernel, by decide +kernel, hu.trans hs.symm, ?_,
    by decide +kernel, ?_⟩
  · rw [hs, show (ambient (lanes 0x1F80#16 0x7F7FFFFF#32 0x73000000#32 0#32)).roundingMode = .rn by decide +kernel]
    norm_num [Overflows, overflowThreshold, Prec.emax, Prec.sigBits, Prec.bias, Prec.fb]
  · rw [hs]
    exact not_fitsPrecision_of_odd _ _ (by decide) (by norm_num [Prec.sigBits, Prec.fb])

/-- An overflow whose rounding to full precision is exact, `O` alone unmasked: the largest finite value twice. -/
theorem witness_FlagsOfRounding_exact_overflow :
    let s := lanes 0x1B80#16 0x7F7FFFFF#32 0x7F7FFFFF#32 0#32
    let x := valQ (operandA .single s 0) + valQ (operandB .single s 0)
    FiniteLane .add s ∧ s.ctrl.getLsbD 10 = false ∧ s.ctrl.extractLsb' 7 3 = 7#3 ∧
    Overflows .single (ambient s).roundingMode x ∧ FitsPrecision .single x := by
  have hs := sum_of_units (a := operandA .single (lanes 0x1B80#16 0x7F7FFFFF#32 0x7F7FFFFF#32 0#32) 0)
    (b := operandB .single (lanes 0x1B80#16 0x7F7FFFFF#32 0x7F7FFFFF#32 0#32) 0) ((2 ^ 24 - 1) * 2 ^ 253)
    ((2 ^ 24 - 1) * 2 ^ 253) (2 ^ 24 - 1) 105 (by decide +kernel) (by decide +kernel)
    (by norm_num [Prec.unitExp, Prec.emin, Prec.bias, Prec.fb])
  refine ⟨⟨active_plain _ _ _, operands_finite (by decide +kernel)⟩, by decide +kernel, by decide +kernel, ?_, ?_⟩
  · rw [hs, show (ambient (lanes 0x1B80#16 0x7F7FFFFF#32 0x7F7FFFFF#32 0#32)).roundingMode = .rn by decide +kernel]
    norm_num [Overflows, overflowThreshold, Prec.emax, Prec.sigBits, Prec.bias, Prec.fb]
  · rw [hs]
    exact fitsPrecision_of_lt _ _ _ (by norm_num [Prec.sigBits, Prec.fb])

/-- Tiny at the boundary under RZ, with FZ set: the largest denormal plus nothing. -/
theorem witness_TinyResultsFlushToZero :
    let s := lanes 0xFF80#16 0x007FFFFF#32 0#32 0#32
    FiniteLane .add s ∧ s.ctrl.getLsbD 15 = true ∧ s.ctrl.getLsbD 11 = true ∧ (ambient s).fuz = true ∧
    TinyAfterRounding .single (ambient s).roundingMode (valQ (operandA .single s 0) + valQ (operandB .single s 0)) := by
  refine ⟨⟨active_plain _ _ _, operands_finite (by decide +kernel)⟩, by decide +kernel, by decide +kernel,
    by decide +kernel, ?_⟩
  rw [show (ambient (lanes 0xFF80#16 0x007FFFFF#32 0#32 0#32)).roundingMode = .rz by decide +kernel,
    sum_of_units (a := operandA .single (lanes 0xFF80#16 0x007FFFFF#32 0#32 0#32) 0)
      (b := operandB .single (lanes 0xFF80#16 0x007FFFFF#32 0#32 0#32) 0) (2 ^ 23 - 1) 0 (2 ^ 23 - 1) (-149)
      (by decide +kernel) (by decide +kernel) (by norm_num [Prec.unitExp, Prec.emin, Prec.bias, Prec.fb])]
  norm_num [TinyAfterRounding, Prec.sigBits, Prec.emin, Prec.bias, Prec.fb]

/-- Flush-to-zero in force and a result that is not tiny: the smallest normal value plus nothing. -/
theorem witness_ArithmeticIsCorrectlyRounded :
    let s := lanes 0x9F80#16 0x00800000#32 0#32 0#32
    FiniteLane .add s ∧ (ambient s).fuz = true ∧
    ¬ TinyAfterRounding .single (ambient s).roundingMode (valQ (operandA .single s 0) + valQ (operandB .single s 0)) := by
  refine ⟨⟨active_plain _ _ _, operands_finite (by decide +kernel)⟩, by decide +kernel, ?_⟩
  rw [show (ambient (lanes 0x9F80#16 0x00800000#32 0#32 0#32)).roundingMode = .rn by decide +kernel,
    sum_of_units (a := operandA .single (lanes 0x9F80#16 0x00800000#32 0#32 0#32) 0)
      (b := operandB .single (lanes 0x9F80#16 0x00800000#32 0#32 0#32) 0) (2 ^ 23) 0 1 (-126) (by decide +kernel)
      (by decide +kernel) (by norm_num [Prec.unitExp, Prec.emin, Prec.bias, Prec.fb])]
  norm_num [TinyAfterRounding, Prec.sigBits, Prec.emin, Prec.bias, Prec.fb]

/-- An exact tiny sum, the smallest denormal alone: FZ off with `U` masked, and `U` alone unmasked. -/
theorem witness_FlagsOfRounding_exact_tiny :
    let s := lanes 0x1F80#16 0x00000001#32 0#32 0#32
    let u := lanes 0x1780#16 0x00000001#32 0#32 0#32
    let x := valQ (operandA .single s 0) + valQ (operandB .single s 0)
    FiniteLane .add s ∧ AllMasked s ∧ (ambient s).fuz = false ∧ FiniteLane .add u ∧ u.ctrl.getLsbD 11 = false ∧
    u.ctrl.extractLsb' 7 3 = 7#3 ∧ valQ (operandA .single u 0) + valQ (operandB .single u 0) = x ∧
    (ambient u).roundingMode = (ambient s).roundingMode ∧
    TinyAfterRounding .single (ambient s).roundingMode x ∧ OnDenormalGrid .single x ∧ FitsPrecision .single x := by
  have hs := sum_of_units (a := operandA .single (lanes 0x1F80#16 0x00000001#32 0#32 0#32) 0)
    (b := operandB .single (lanes 0x1F80#16 0x00000001#32 0#32 0#32) 0) 1 0 1 (-149) (by decide +kernel)
    (by decide +kernel) (by norm_num [Prec.unitExp, Prec.emin, Prec.bias, Prec.fb])
  have hu := sum_of_units (a := operandA .single (lanes 0x1780#16 0x00000001#32 0#32 0#32) 0)
    (b := operandB .single (lanes 0x1780#16 0x00000001#32 0#32 0#32) 0) 1 0 1 (-149) (by decide +kernel)
    (by decide +kernel) (by norm_num [Prec.unitExp, Prec.emin, Prec.bias, Prec.fb])
  refine ⟨⟨active_plain _ _ _, operands_finite (by decide +kernel)⟩, by unfold AllMasked; decide +kernel,
    by decide +kernel, ⟨active_plain _ _ _, operands_finite (by decide +kernel)⟩, by decide +kernel, by decide +kernel,
    hu.trans hs.symm, by decide +kernel, ?_, ⟨1, hs⟩, ?_⟩
  · rw [hs, show (ambient (lanes 0x1F80#16 0x00000001#32 0#32 0#32)).roundingMode = .rn by decide +kernel]
    norm_num [TinyAfterRounding, Prec.sigBits, Prec.emin, Prec.bias, Prec.fb]
  · rw [hs]
    exact fitsPrecision_of_lt _ _ _ (by norm_num [Prec.sigBits, Prec.fb])

/-- A tiny product of 47 bits, off the denormal grid: `(1 + 2^-23) * 2^-126` times `(1 + 2^-23) / 2`, with `U` masked and with
`U` alone unmasked. -/
theorem witness_FlagsOfRounding_inexact_tiny :
    let s := lanes 0x1F80#16 0x00800001#32 0x3F000001#32 0#32
    let u := lanes 0x1780#16 0x00800001#32 0x3F000001#32 0#32
    let x := valQ (operandA .single s 0) * valQ (operandB .single s 0)
    FiniteLane .mul s ∧ AllMasked s ∧ (ambient s).fuz = false ∧ FiniteLane .mul u ∧ u.ctrl.getLsbD 11 = false ∧
    u.ctrl.extractLsb' 7 3 = 7#3 ∧ valQ (operandA .single u 0) * valQ (operandB .single u 0) = x ∧
    (ambient u).roundingMode = (ambient s).roundingMode ∧
    TinyAfterRounding .single (ambient s).roundingMode x ∧ ¬ OnDenormalGrid .single x ∧ ¬ FitsPrecision .single x := by
  have hs := product_of_units (a := operandA .single (lanes 0x1F80#16 0x00800001#32 0x3F000001#32 0#32) 0)
    (b := operandB .single (lanes 0x1F80#16 0x00800001#32 0x3F000001#32 0#32) 0) (2 ^ 23 + 1) ((2 ^ 23 + 1) * 2 ^ 125)
    (2 ^ 46 + 2 ^ 24 + 1) (-173) (by decide +kernel) (by decide +kernel)
    (by norm_num [Prec.unitExp, Prec.emin, Prec.bias, Prec.fb])
  have hu := product_of_units (a := operandA .single (lanes 0x1780#16 0x00800001#32 0x3F000001#32 0#32) 0)
    (b := operandB .single (lanes 0x1780#16 0x00800001#32 0x3F000001#32 0#32) 0) (2 ^ 23 + 1) ((2 ^ 23 + 1) * 2 ^ 125)
    (2 ^ 46 + 2 ^ 24 + 1) (-173) (by decide +kernel) (by decide +kernel)
    (by norm_num [Prec.unitExp, Prec.emin, Prec.bias, Prec.fb])
  refine ⟨⟨active_plain _ _ _, operands_finite (by decide +kernel)⟩, by unfold AllMasked; decide +kernel,
    by decide +kernel, ⟨active_plain _ _ _, operands_finite (by decide +kernel)⟩, by decide +kernel, by decide +kernel,
    hu.trans hs.symm, by decide +kernel, ?_, ?_, ?_⟩
  · rw [hs, show (ambient (lanes 0x1F80#16 0x00800001#32 0x3F000001#32 0#32)).roundingMode = .rn by decide +kernel]
    norm_num [TinyAfterRounding, Prec.sigBits, Prec.emin, Prec.bias, Prec.fb]
  · rw [hs]
    exact not_onDenormalGrid_of_odd _ (by decide) (by norm_num [Prec.emin, Prec.bias, Prec.fb])
  · rw [hs]
    exact not_fitsPrecision_of_odd _ _ (by decide) (by norm_num [Prec.sigBits, Prec.fb])

/-- Neither tiny nor overflowing: the smallest normal value, exact; and `1 + 2^-24` with `P` alone unmasked, inexact. -/
theorem witness_FlagsOfRounding_neither :
    (let s := lanes 0x1F80#16 0x00800000#32 0#32 0#32
     let x := valQ (operandA .single s 0) + valQ (operandB .single s 0)
     FiniteLane .add s ∧ ¬ Overflows .single (ambient s).roundingMode x ∧
     ¬ TinyAfterRounding .single (ambient s).roundingMode x ∧ FitsPrecision .single x) ∧
    (let s := lanes 0x0F80#16 0x3F800000#32 0x33800000#32 0#32
     let x := valQ (operandA .single s 0) + valQ (operandB .single s 0)
     FiniteLane .add s ∧ ¬ Overflows .single (ambient s).roundingMode x ∧
     ¬ TinyAfterRounding .single (ambient s).roundingMode x ∧ ¬ FitsPrecision .single x) := by
  have h1 := sum_of_units (a := operandA .single (lanes 0x1F80#16 0x00800000#32 0#32 0#32) 0)
    (b := operandB .single (lanes 0x1F80#16 0x00800000#32 0#32 0#32) 0) (2 ^ 23) 0 1 (-126) (by decide +kernel)
    (by decide +kernel) (by norm_num [Prec.unitExp, Prec.emin, Prec.bias, Prec.fb])
  have h2 := sum_of_units (a := operandA .single (lanes 0x0F80#16 0x3F800000#32 0x33800000#32 0#32) 0)
    (b := operandB .single (lanes 0x0F80#16 0x3F800000#32 0x33800000#32 0#32) 0) (2 ^ 149) (2 ^ 125) (2 ^ 24 + 1) (-24)
    (by decide +kernel) (by decide +kernel) (by norm_num [Prec.unitExp, Prec.emin, Prec.bias, Prec.fb])
  refine ⟨⟨⟨active_plain _ _ _, operands_finite (by decide +kernel)⟩, ?_, ?_, ?_⟩,
    ⟨⟨active_plain _ _ _, operands_finite (by decide +kernel)⟩, ?_, ?_, ?_⟩⟩
  · rw [h1, show (ambient (lanes 0x1F80#16 0x00800000#32 0#32 0#32)).roundingMode = .rn by decide +kernel]
    norm_num [Overflows, overflowThreshold, Prec.emax, Prec.sigBits, Prec.bias, Prec.fb]
  · rw [h1, show (ambient (lanes 0x1F80#16 0x00800000#32 0#32 0#32)).roundingMode = .rn by decide +kernel]
    norm_num [TinyAfterRounding, Prec.sigBits, Prec.emin, Prec.bias, Prec.fb]
  · rw [h1]
    exact fitsPrecision_of_lt _ _ _ (by norm_num [Prec.sigBits, Prec.fb])
  · rw [h2, show (ambient (lanes 0x0F80#16 0x3F800000#32 0x33800000#32 0#32)).roundingMode = .rn by decide +kernel]
    norm_num [Overflows, overflowThreshold, Prec.emax, Prec.sigBits, Prec.bias, Prec.fb, abs_of_pos]
  · rw [h2, show (ambient (lanes 0x0F80#16 0x3F800000#32 0x33800000#32 0#32)).roundingMode = .rn by decide +kernel]
    norm_num [TinyAfterRounding, Prec.sigBits, Prec.emin, Prec.bias, Prec.fb, abs_of_pos]
  · rw [h2]
    exact not_fitsPrecision_of_odd _ _ (by decide) (by norm_num [Prec.sigBits, Prec.fb])

/-- Both clauses of UnmaskedRangeExceptionsFault, each with an exact and an inexact rounding: the states are those of the
FlagsOfRounding witnesses, CTRL `0x1780` and `0x1B80`. -/
theorem witness_UnmaskedRangeExceptionsFault :
    (0x1780#16).getLsbD 11 = false ∧ (0x1780#16).extractLsb' 7 3 = 7#3 ∧
    (0x1B80#16).getLsbD 10 = false ∧ (0x1B80#16).extractLsb' 7 3 = 7#3 := by decide

/-- A sum `x + (-x)` of denormals; and, for REDUCE, the integer 5. -/
theorem witness_SignOfAnExactZeroSum :
    (let s := lanes 0x3F80#16 0x00000001#32 0x80000001#32 0#32
     ActiveLane .single .scalar plain s 0 ∧ (∀ y ∈ operands .single .add s 0, isFinite y = true) ∧
     exactValue .add (valQ (operandA .single s 0)) (valQ (operandB .single s 0)) (valQ (operandC .single s 0)) = some 0) ∧
    (let s := lanes 0x1F80#16 0x40A00000#32 0#32 0#32
     isFinite (operandA .single s 0) = true ∧
     ∃ k : ℤ, valQ (operandA .single s 0) = (k : ℚ) / (2 : ℚ) ^ immScale plain.imm8) := by
  refine ⟨⟨active_plain _ _ _, operands_finite (by decide +kernel), ?_⟩, ⟨by decide +kernel, 5, ?_⟩⟩
  · rw [valQ_of_units (operandA .single (lanes 0x3F80#16 0x00000001#32 0x80000001#32 0#32) 0) 1 (by decide +kernel),
      valQ_of_units (operandB .single (lanes 0x3F80#16 0x00000001#32 0x80000001#32 0#32) 0) (-1) (by decide +kernel)]
    simp [exactValue]
  · rw [valQ_of_units (operandA .single (lanes 0x1F80#16 0x40A00000#32 0#32 0#32) 0) (5 * 2 ^ 149) (by decide +kernel)]
    norm_num [plain, immScale, Prec.unitExp, Prec.emin, Prec.bias, Prec.fb]

/-- The smallest denormal. -/
theorem witness_SquareRootIsCorrectlyRounded :
    let s := lanes 0x1F80#16 0x00000001#32 0#32 0#32
    ActiveLane .single .scalar plain s 0 ∧ isFinite (operandA .single s 0) = true ∧ 0 < valQ (operandA .single s 0) := by
  refine ⟨active_plain _ _ _, by decide +kernel, ?_⟩
  rw [valQ_of_units (operandA .single (lanes 0x1F80#16 0x00000001#32 0#32 0#32) 0) 1 (by decide +kernel)]
  positivity

/-- A NaN operand; the zeros, equal; minus infinity strictly below a finite value. -/
theorem witness_MinimumAndMaximum :
    isNaN (operandA .single (lanes 0x1F80#16 0x7FC00000#32 0#32 0#32) 0) = true ∧
    (let s := lanes 0x1F80#16 0x00000000#32 0x80000000#32 0#32
     ActiveLane .single .scalar plain s 0 ∧ isNaN (operandA .single s 0) = false ∧ isNaN (operandB .single s 0) = false ∧
     ¬ Below (operandA .single s 0) (operandB .single s 0) ∧ ¬ Below (operandB .single s 0) (operandA .single s 0)) ∧
    (let s := lanes 0x1F80#16 0xFF800000#32 0xFF7FFFFF#32 0#32
     Below (operandA .single s 0) (operandB .single s 0)) := by
  refine ⟨by decide +kernel, ⟨active_plain _ _ _, by decide +kernel, by decide +kernel, ?_, ?_⟩, ?_⟩ <;>
    rw [← order_eq_lt_iff _ _ (by decide +kernel) (by decide +kernel)] <;> decide +kernel

/-- Every clause: a signaling NaN, a quiet NaN alone, min and max of equal absolute values (neither below) and of different
ones. -/
theorem witness_RangeSelection :
    ActiveLane .single .scalar plain State.reset 0 ∧
    isSNaN (operandA .single (lanes 0x1F80#16 0x7F800001#32 0#32 0#32) 0) = true ∧
    (let s := lanes 0x1F80#16 0x7FC00000#32 0x40400000#32 0#32
     isSNaN (operandA .single s 0) = false ∧ isSNaN (operandB .single s 0) = false ∧ isNaN (operandA .single s 0) = true) ∧
    (let s := lanes 0x1F80#16 0xC0000000#32 0x40000000#32 0#32
     isNaN (operandA .single s 0) = false ∧ isNaN (operandB .single s 0) = false ∧
     ¬ Below (absLane (operandA .single s 0)) (absLane (operandB .single s 0)) ∧
     ¬ Below (absLane (operandB .single s 0)) (absLane (operandA .single s 0)) ∧
     Below (operandA .single s 0) (operandB .single s 0)) ∧
    (0x02#8).getLsbD 0 = false ∧ (0x03#8).getLsbD 0 = true := by
  refine ⟨active_plain _ _ _, by decide +kernel, by decide +kernel, ⟨by decide +kernel, by decide +kernel, ?_, ?_, ?_⟩,
    by decide, by decide⟩ <;>
    rw [← order_eq_lt_iff _ _ (by decide +kernel) (by decide +kernel)] <;> decide +kernel

theorem witness_RangeKeepsTheFirstSign :
    let s := lanes 0x1F80#16 0xFFC00001#32 0x40400000#32 0#32
    ActiveLane .single .scalar plain s 0 ∧ plain.imm8.extractLsb' 2 2 = 0#2 ∧
    isSNaN (laneOf .single s.a 0) = false ∧ isSNaN (laneOf .single s.b 0) = false :=
  ⟨active_plain _ _ _, by decide +kernel, by decide +kernel, by decide +kernel⟩

/-- Every clause: unordered, less, greater, and neither (the two zeros). -/
theorem witness_Comparison :
    ActiveLane .single .scalar plain State.reset 0 ∧
    isNaN (operandB .single (lanes 0x1F80#16 0x3F800000#32 0x7FC00000#32 0#32) 0) = true ∧
    (let s := lanes 0x1F80#16 0x3F800000#32 0x40000000#32 0#32
     isNaN (operandA .single s 0) = false ∧ isNaN (operandB .single s 0) = false ∧
     Below (operandA .single s 0) (operandB .single s 0)) ∧
    (let s := lanes 0x1F80#16 0x7F800000#32 0x7F7FFFFF#32 0#32
     Below (operandB .single s 0) (operandA .single s 0)) ∧
    (let s := lanes 0x1F80#16 0x80000000#32 0x00000000#32 0#32
     ¬ Below (operandA .single s 0) (operandB .single s 0) ∧ ¬ Below (operandB .single s 0) (operandA .single s 0)) := by
  refine ⟨active_plain _ _ _, by decide +kernel, ⟨by decide +kernel, by decide +kernel, ?_⟩, ?_, ?_, ?_⟩ <;>
    rw [← order_eq_lt_iff _ _ (by decide +kernel) (by decide +kernel)] <;> decide +kernel

theorem witness_SymmetricComparison :
    (predicateOf (plain.imm8.extractLsb' 0 5)).lt = (predicateOf (plain.imm8.extractLsb' 0 5)).gt := by decide

theorem witness_ClassTest : ActiveLane .double .scalar plain State.reset 0 := active_plain _ _ _
theorem witness_FixupByToken : ActiveLane .single .scalar plain State.reset 0 := active_plain _ _ _

theorem witness_FixupPreservePath :
    plain.imm8 = 0#8 ∧
    ∀ n < Form.packed.loopLanes plain.vl .double,
      (laneOf .double (lanes64 0x1F80#16 0x3FF0000000000000#64 0xFFFFFFFF00000000#64).b n).extractLsb' 0 32 = 0#32 := by
  decide +kernel

/-- Every clause of ExtractExponent and ExtractMantissa: a zero, an infinity, the smallest denormal; each interval. -/
theorem witness_ExtractExponent :
    ActiveLane .single .scalar plain State.reset 0 ∧
    isZero (operandA .single (lanes 0x1F80#16 0x80000000#32 0#32 0#32) 0) = true ∧
    isInf (operandA .single (lanes 0x1F80#16 0xFF800000#32 0#32 0#32) 0) = true ∧
    isFinite (operandA .single (lanes 0x1F80#16 1#32 0#32 0#32) 0) = true ∧
    isZero (operandA .single (lanes 0x1F80#16 1#32 0#32 0#32) 0) = false :=
  ⟨active_plain _ _ _, by decide +kernel, by decide +kernel, by decide +kernel, by decide +kernel⟩

theorem witness_ExtractMantissa :
    isFinite (operandA .single (lanes 0x1F80#16 0x00600000#32 0#32 0#32) 0) = true ∧
    isZero (operandA .single (lanes 0x1F80#16 0x00600000#32 0#32 0#32) 0) = false ∧
    (0xF0#8).extractLsb' 0 2 = 0#2 ∧ (0x01#8).extractLsb' 0 2 = 1#2 ∧ (0x06#8).extractLsb' 0 2 = 2#2 ∧
    (0x0F#8).extractLsb' 0 2 = 3#2 := by decide +kernel

theorem witness_ExtractorIdentity :
    let s := lanes 0x1F80#16 1#32 0#32 0#32
    ActiveLane .single .scalar plain s 0 ∧ isFinite (laneOf .single s.a 0) = true ∧
    isZero (laneOf .single s.a 0) = false ∧ s.ctrl.getLsbD 6 = false ∧ plain.imm8.extractLsb' 0 4 = 0#4 :=
  ⟨active_plain _ _ _, by decide +kernel, by decide +kernel, by decide +kernel, by decide +kernel⟩

theorem witness_RoundToScale :
    ActiveLane .single .scalar plain State.reset 0 ∧
    isZero (operandA .single (lanes 0x1F80#16 0x80000000#32 0#32 0#32) 0) = true ∧
    isFinite (operandA .single (lanes 0x1F80#16 0x40200000#32 0#32 0#32) 0) = true ∧
    isZero (operandA .single (lanes 0x1F80#16 0x40200000#32 0#32 0#32) 0) = false :=
  ⟨active_plain _ _ _, by decide +kernel, by decide +kernel, by decide +kernel⟩

/-- An infinity; 2.75 with `U` unmasked, whose response does not fault; and the smallest denormal with `U` unmasked, whose
response does, no lane of either being an infinity. -/
theorem witness_ReduceIsSubtractionOfTheRounded :
    (ActiveLane .single .scalar plain (lanes 0x1F80#16 0xFF800000#32 0#32 0#32) 0 ∧
      isInf (laneOf .single (lanes 0x1F80#16 0xFF800000#32 0#32 0#32).a 0) = true) ∧
    (let s := lanes 0x1780#16 0x40300000#32 0#32 0#32
     ActiveLane .single .scalar plain s 0 ∧ isInf (laneOf .single s.a 0) = false ∧
     ∃ v, exec (.reduceSs plain) s = .next v ∧ v.fault = false) ∧
    (let s := lanes 0x1780#16 0x00000001#32 0#32 0#32
     (∀ n, ActiveLane .single .scalar plain s n → isInf (laneOf .single s.a n) = false) ∧
     ∃ v, exec (.reduceSs plain) s = .next v ∧ v.fault = true) := by
  refine ⟨⟨active_plain _ _ _, by decide +kernel⟩,
    ⟨active_plain _ _ _, by decide +kernel, _, rfl, by decide +kernel⟩, fun n hn => ?_, _, rfl, by decide +kernel⟩
  obtain rfl : n = 0 := Nat.lt_one_iff.1 hn.1
  decide +kernel

theorem witness_ReduceIsExactUnderNearest :
    let s := lanes 0x7F80#16 0x3FA66666#32 0#32 0#32
    ActiveLane .single .scalar plain s 0 ∧ isFinite (operandA .single s 0) = true ∧
    (overridden plain s).roundingMode = .rn ∧ (ambient s).fuz = false :=
  ⟨active_plain _ _ _, by decide +kernel, by decide +kernel, by decide +kernel⟩

theorem witness_OverrideActsAsAmbientMode : plain.imm8.getLsbD 2 = false := rfl

theorem witness_ScaleByZeroIsIdentity :
    (let s := lanes 0x9F80#16 0x7F7FFFFF#32 0x80000000#32 0#32
     ActiveLane .single .scalar plain s 0 ∧ isZero (laneOf .single s.b 0) = true ∧
     isNormal (laneOf .single s.a 0) = true) ∧
    (let s := lanes 0x1F80#16 0x00000001#32 0#32 0#32
     isZero (laneOf .single s.b 0) = true ∧ isDenorm (laneOf .single s.a 0) = true ∧ (ambient s).daz = false ∧
     (ambient s).fuz = false) :=
  ⟨⟨active_plain _ _ _, by decide +kernel, by decide +kernel⟩, by decide +kernel⟩

/-- Suppressed with every exception unmasked; and, unsuppressed with `P` alone unmasked, 2.5 against multiples of 1. -/
theorem witness_SuppressionBeforeTheMaskTest :
    ((0x08#8).getLsbD 3 = true ∧ isSNaN (laneOf .single (lanes 0x0000#16 0x40200000#32 0#32 0#32).a 0) = false) ∧
    (let s := lanes 0x0F80#16 0x40200000#32 0#32 0#32
     plain.imm8.getLsbD 3 = false ∧ s.ctrl.getLsbD 12 = false ∧ s.ctrl.getLsbD 7 = true ∧ s.ctrl.getLsbD 8 = true ∧
     ActiveLane .single .scalar plain s 0 ∧ isFinite (operandA .single s 0) = true ∧
     ¬ ∃ k : ℤ, valQ (operandA .single s 0) = (k : ℚ) / (2 : ℚ) ^ immScale plain.imm8) := by
  refine ⟨⟨rfl, by decide +kernel⟩, rfl, by decide +kernel, by decide +kernel, by decide +kernel, active_plain _ _ _, by decide +kernel, ?_⟩
  rw [valQ_of_units (operandA .single (lanes 0x0F80#16 0x40200000#32 0#32 0#32) 0) (5 * 2 ^ 148) (by decide +kernel)]
  rintro ⟨k, hk⟩
  have h0 : immScale plain.imm8 = 0 := rfl
  norm_num [h0, Prec.unitExp, Prec.emin, Prec.bias, Prec.fb] at hk
  have h2 : (2 * k : ℤ) = 5 := by
    have : (2 : ℚ) * k = 5 := by linarith
    exact_mod_cast this
  omega

theorem witness_StepKeepsResponseConsistent :
    ResponseConsistent { State.reset with cmd := some 0x00000043#32 } ∧
    ∃ t, step { State.reset with cmd := some 0x00000043#32 } = .next t := by
  refine ⟨?_, _, rfl⟩
  unfold ResponseConsistent
  decide +kernel

theorem witness_ControlRegisterOnlyGains :
    commandsOnly (bench 0x1F80#16).program ∧ ∃ g, (bench 0x1F80#16).run 1 = .next g := by
  refine ⟨?_, _, rfl⟩
  simp [commandsOnly, bench]

/-- 1.0 / 0.0 with divide-by-zero unmasked, as the first action of a program: the answer faults. -/
theorem witness_FaultLeavesTheDestination :
    ∃ s t, (bench 0x1D80#16).stopped = false ∧ decode 0x00000043#32 = .ok (.divSs plain) ∧
      (bench 0x1D80#16).present (.divSs plain) 0x00000043#32 2 0 1 0 0 = some s ∧ exec (.divSs plain) s = .next t ∧
      t.fault = true :=
  ⟨_, _, rfl, by decide, rfl, rfl, by decide +kernel⟩

/-- The same with every exception masked: the answer does not fault. -/
theorem witness_ResultIsStored :
    ∃ s t, (bench 0x1F80#16).stopped = false ∧ decode 0x00000043#32 = .ok (.divSs plain) ∧
      (bench 0x1F80#16).present (.divSs plain) 0x00000043#32 2 0 1 0 0 = some s ∧ exec (.divSs plain) s = .next t ∧
      t.fault = false :=
  ⟨_, _, rfl, by decide, rfl, rfl, by decide +kernel⟩

end Sys2Proof.Tests
end

section
/-! SUPPORT. The answer of any of the eighty instructions, said once: which fields of the state a command leaves alone and what
each response port holds. The frame, the noninterference of the response and the growth of CTRL follow from it. -/

namespace Sys2Proof.Machine

variable {p : Prec} {form : Form} {op : Op} {f : Fields} {s t u : State}

/-! ### The written-back control register (10_state.md R25) -/

@[simp] theorem ctrlFlags_mergedCtrl (c : CtrlWord) (fl : Flags) : ctrlFlags (mergedCtrl c fl) = ctrlFlags c ||| fl :=
  BitVec.extractLsb'_append_eq_right

@[simp] theorem extractLsb'_mergedCtrl (c : CtrlWord) (fl : Flags) :
    (mergedCtrl c fl).extractLsb' 6 10 = c.extractLsb' 6 10 :=
  BitVec.extractLsb'_append_eq_left

theorem CtrlGrows.refl (c : CtrlWord) : CtrlGrows c c := ⟨BitVec.and_self, rfl⟩

theorem CtrlGrows.trans {c d e : CtrlWord} (hcd : CtrlGrows c d) (hde : CtrlGrows d e) : CtrlGrows c e := by
  obtain ⟨hflags, hrest⟩ := hcd
  obtain ⟨hflags', hrest'⟩ := hde
  refine ⟨?_, hrest.trans hrest'⟩
  calc ctrlFlags c &&& ctrlFlags e
      = ctrlFlags c &&& (ctrlFlags d &&& ctrlFlags e) := by rw [← BitVec.and_assoc, hflags]
    _ = ctrlFlags c := by rw [hflags', hflags]

/-- Merging flags back clears no flag and touches no other bit. -/
theorem ctrlGrows_mergedCtrl (c : CtrlWord) (fl : Flags) : CtrlGrows c (mergedCtrl c fl) := by
  refine ⟨?_, (extractLsb'_mergedCtrl c fl).symm⟩
  rw [ctrlFlags_mergedCtrl]
  apply BitVec.eq_of_getLsbD_eq
  intro j _
  simp only [BitVec.getLsbD_and, BitVec.getLsbD_or, Bool.and_or_distrib_left, Bool.and_self, Bool.or_eq_left_iff_imp,
    Bool.and_eq_true, and_imp]
  exact fun h _ => h

/-! ### The answer of a command -/

/-- The context a command ends its lane loop with, in the terms of `laneResult`. -/
def endContext (p : Prec) (form : Form) (op : Op) (f : Fields) (s : State) : StatusContext :=
  (commandContext op f s).accumulate (fun n => activeFlags f s.k n (laneResult p op f s n).flags) (form.loopLanes f.vl p)

/-- Lane `n` of a container result, behind the masked-lane multiplexer (44_lanes_masking.md R194). -/
def resultLane (p : Prec) (op : Op) (f : Fields) (s : State) (n : Nat) : Lane p :=
  blend (laneOf p s.dprior n) (laneResult p op f s n).val (laneActive f s.k n) (zeroPolicy f)

/-- Bit `n` of a mask result: 0 outside the mask (44_lanes_masking.md R199). -/
def resultBit (p : Prec) (op : Op) (f : Fields) (s : State) (n : Nat) : Bool :=
  laneActive f s.k n && (laneResult p op f s n).bit

/-- `t` is what a command leaves when it is issued in `s`: the input ports stand, the word is gone, the flags of the lane
loop are merged into CTRL, and without a fault the one result port of the operation holds the result. -/
structure CommandAnswer (p : Prec) (form : Form) (op : Op) (f : Fields) (s t : State) : Prop where
  a_eq : t.a = s.a
  b_eq : t.b = s.b
  c_eq : t.c = s.c
  dprior_eq : t.dprior = s.dprior
  k_eq : t.k = s.k
  cmd_eq : t.cmd = none
  ctrl_eq : t.ctrl = t.ctrlOut
  finalFlags_eq : t.finalFlags = (endContext p form op f s).finalFlags
  fault_eq : t.fault = (endContext p form op f s).shouldFault
  ctrlOut_eq : t.ctrlOut = mergedCtrl s.ctrl (endContext p form op f s).finalFlags
  result_eq : op.isMask = false → t.fault = false → t.result = packLanes (resultLane p op f s) (form.loopLanes f.vl p)
  kresult_eq : op.isMask = true → t.fault = false → t.kresult = packBits (resultBit p op f s) (form.loopLanes f.vl p)

/-- An operation with a mask result takes no override, so its lanes run in the context built without one. -/
theorem buildContext_none_of_isMask (s : State) (f : Fields) (h : op.isMask = true) :
    (s.buildContext none).sc = commandContext op f s := by
  have hno : overrideOf op f = none := if_neg (by rintro (rfl | rfl) <;> exact absurd h (by decide))
  rw [← buildContext_overrideOf, hno]

/-- Every instruction completes, in every state, and this is its answer. -/
theorem exec_build_answer (p : Prec) (form : Form) (op : Op) (f : Fields) (s : State) :
    ∃ t, exec (Instr.build f op p form) s = .next t ∧ CommandAnswer p form op f s t := by
  cases hm : op.isMask with
  | false =>
    obtain ⟨t, ht, hff, hfa, hco, hctrl, hcmd, hres, ha, hb, hc, hd, hk⟩ := runContainer_spec p form (overrideOf op f)
      (fun sc imm8 x => ⟨(laneOp op sc imm8 x).val, (laneOp op sc imm8 x).flags⟩) f s
    simp only [loopContext, buildContext_overrideOf] at hff hfa hco hres
    exact ⟨t, (exec_build_container f op p form s hm).trans ht, ha, hb, hc, hd, hk, hcmd, hctrl, hff, hfa, hco,
      fun _ => hres, fun h => absurd h (by simp [hm])⟩
  | true =>
    obtain ⟨t, ht, hff, hfa, hco, hctrl, hcmd, hres, ha, hb, hc, hd, hk⟩ := runMask_spec p form
      (fun sc imm8 x => ⟨(laneOp op sc imm8 x).bit, (laneOp op sc imm8 x).flags⟩) f s
    simp only [loopContext, buildContext_none_of_isMask s f hm] at hff hfa hco hres
    exact ⟨t, (exec_build_mask f op p form s hm).trans ht, ha, hb, hc, hd, hk, hcmd, hctrl, hff, hfa, hco,
      fun h => absurd h (by simp [hm]), fun _ => hres⟩

/-- Whatever an instruction answers is the answer of its four parts. -/
theorem commandAnswer_of_exec {i : Instr} (h : exec i s = .next t) : CommandAnswer i.prec i.form i.op i.fields s t := by
  obtain ⟨t', ht', hans⟩ := exec_build_answer i.prec i.form i.op i.fields s
  rw [build_parts, h] at ht'
  cases ht'
  exact hans

theorem CommandAnswer.ctrlGrows (h : CommandAnswer p form op f s t) : CtrlGrows s.ctrl t.ctrl := by
  rw [h.ctrl_eq, h.ctrlOut_eq]
  exact ctrlGrows_mergedCtrl _ _

/-- Settles O11: every conjunct is a part of the one answer all instructions give. -/
theorem frameOfEveryInstruction : Obligations.FrameOfEveryInstruction := by
  intro i s t h
  have ans := commandAnswer_of_exec h
  exact ⟨ans.a_eq, ans.b_eq, ans.c_eq, ans.dprior_eq, ans.k_eq, ans.ctrlGrows, ans.ctrl_eq, ans.cmd_eq⟩

end Sys2Proof.Machine
end

section
/-! SUPPORT. Noninterference: a loop over lanes sees its first lanes only, a lane function sees the lanes its operation reads
only, and so two states that agree where a command reads give one answer. -/

namespace Sys2Proof.Machine

variable {p : Prec} {form : Form} {op : Op} {f : Fields} {s u : State}

/-! ### Loops over lanes see the first `n` lanes only -/

theorem accumulate_congr (sc : StatusContext) {g h : Nat → Flags} {n : Nat} (hgh : ∀ i < n, g i = h i) :
    sc.accumulate g n = sc.accumulate h n := by
  induction n with
  | zero => rfl
  | succ n ih => rw [StatusContext.accumulate, StatusContext.accumulate, ih fun i hi => hgh i (by omega), hgh n (by omega)]

theorem packLanes_congr {v w : Nat → Lane p} {n : Nat} (hvw : ∀ i < n, v i = w i) : packLanes v n = packLanes w n := by
  induction n with
  | zero => rfl
  | succ n ih => rw [packLanes, packLanes, ih fun i hi => hvw i (by omega), hvw n (by omega)]

theorem packBits_congr {b c : Nat → Bool} {n : Nat} (hbc : ∀ i < n, b i = c i) : packBits b n = packBits c n := by
  induction n with
  | zero => rfl
  | succ n ih => rw [packBits, packBits, ih fun i hi => hbc i (by omega), hbc n (by omega)]

/-! ### What a lane function reads (10_state.md R26) -/

/-- A lane function reads lane A, lanes B and C where its operation does, and the prior destination for FIXUPIMM alone. -/
theorem laneOp_congr (op : Op) (sc : StatusContext) (imm8 : BitVec 8) {x y : LaneArgs p} (ha : x.a = y.a)
    (hb : op.readsB = true → x.b = y.b) (hc : op.readsC = true → x.c = y.c) (hd : op = .fixupimm → x.dst = y.dst) :
    laneOp op sc imm8 x = laneOp op sc imm8 y := by
  obtain ⟨xa, xb, xc, xd⟩ := x
  obtain ⟨ya, yb, yc, yd⟩ := y
  cases ha
  cases op with
  | fmadd | fmsub | fnmadd | fnmsub => cases hb rfl; cases hc rfl; rfl
  | fixupimm => cases hb rfl; cases hd rfl; rfl
  | add | sub | mul | div | min | max | range | scalef | cmp => cases hb rfl; rfl
  | sqrt | fpclass | getexp | getmant | reduce | rndscale => rfl

/-! ### Two states that agree where a command reads -/

theorem commandContext_congr (op : Op) (f : Fields) (h : s.ctrl = u.ctrl) :
    commandContext op f s = commandContext op f u := by
  simp only [commandContext, overridden, ambient, h]

namespace AgreeWhereRead

theorem ctrl_eq (h : AgreeWhereRead p form op f s u) : s.ctrl = u.ctrl := h.1

section Lane

variable (h : AgreeWhereRead p form op f s u) {n : Nat} (hn : n < form.loopLanes f.vl p)
include h hn

theorem laneActive_eq : laneActive f s.k n = laneActive f u.k n := by
  obtain ⟨hk, -, -⟩ := h.2 n hn
  unfold laneActive
  cases hm : f.maskEn with
  | false => rfl
  | true => rw [hk hm]

theorem laneResult_eq (hact : laneActive f s.k n = true) : laneResult p op f s n = laneResult p op f u n := by
  obtain ⟨-, hread, -⟩ := h.2 n hn
  obtain ⟨ha, hb, hc, hd⟩ := hread hact
  unfold laneResult
  rw [commandContext_congr op f h.ctrl_eq]
  exact laneOp_congr op _ _ ha hb hc hd

theorem activeFlags_eq : activeFlags f s.k n (laneResult p op f s n).flags =
    activeFlags f u.k n (laneResult p op f u n).flags := by
  unfold activeFlags
  rw [← h.laneActive_eq hn]
  cases hact : laneActive f s.k n with
  | false => rfl
  | true => rw [h.laneResult_eq hn hact]

theorem resultLane_eq (hm : op.isMask = false) : resultLane p op f s n = resultLane p op f u n := by
  obtain ⟨-, -, hmerge⟩ := h.2 n hn
  unfold resultLane blend
  rw [← h.laneActive_eq hn]
  cases hact : laneActive f s.k n with
  | true => rw [h.laneResult_eq hn hact]; rfl
  | false =>
    cases hz : zeroPolicy f with
    | true => rfl
    | false => exact hmerge hact hz hm

theorem resultBit_eq : resultBit p op f s n = resultBit p op f u n := by
  unfold resultBit
  rw [← h.laneActive_eq hn]
  cases hact : laneActive f s.k n with
  | false => rfl
  | true => rw [h.laneResult_eq hn hact]

end Lane

theorem endContext_eq (h : AgreeWhereRead p form op f s u) : endContext p form op f s = endContext p form op f u := by
  unfold endContext
  rw [commandContext_congr op f h.ctrl_eq]
  exact accumulate_congr _ fun _ hn => h.activeFlags_eq hn

end AgreeWhereRead

/-- Settles O18: the response is a function of the context the lane loop ends with and of the result lanes, and the two
states agree on both. -/
theorem responseDependsOnWhatIsRead : Obligations.ResponseDependsOnWhatIsRead := by
  intro op p form f s u h
  obtain ⟨t, ht, hs⟩ := exec_build_answer p form op f s
  obtain ⟨v, hv, hu⟩ := exec_build_answer p form op f u
  have hfault : t.fault = v.fault := by rw [hs.fault_eq, hu.fault_eq, h.endContext_eq]
  refine ⟨t, v, ht, hv, ?_, ?_, hfault, fun hno => ?_⟩
  · rw [hs.ctrlOut_eq, hu.ctrlOut_eq, h.endContext_eq, h.ctrl_eq]
  · rw [hs.finalFlags_eq, hu.finalFlags_eq, h.endContext_eq]
  · rw [build_op]
    cases hm : op.isMask with
    | false =>
      change t.result = v.result
      rw [hs.result_eq hm hno, hu.result_eq hm (hfault ▸ hno)]
      exact packLanes_congr fun _ hn => h.resultLane_eq hn hm
    | true =>
      change t.kresult = v.kresult
      rw [hs.kresult_eq hm hno, hu.kresult_eq hm (hfault ▸ hno)]
      exact packBits_congr fun _ hn => h.resultBit_eq hn

end Sys2Proof.Machine
end

section
/-! SUPPORT. What one action of the harness can do, and the induction along a run of it: a program without a write of CTRL
lets it gain sticky flags and nothing else. -/

namespace Sys2Proof.Machine

variable {h g : Harness} {s t : State}

/-- One step of FPCORE, waiting or executing, only lets CTRL gain flags. -/
theorem ctrlGrows_of_step (hst : step s = .next t) : CtrlGrows s.ctrl t.ctrl := by
  unfold step at hst
  split at hst
  · cases hst
    exact CtrlGrows.refl _
  · split at hst
    · exact (commandAnswer_of_exec hst).ctrlGrows
    · cases hst

/-! ### The parts of one action -/

/-- Presenting a command's operands drives the input ports and the command word and nothing else. -/
theorem Harness.present_ctrl {i : Instr} {w : CmdWord} {dst a b c k : Nat} (hp : h.present i w dst a b c k = some s) :
    s.ctrl = h.core.ctrl := by
  simp only [Harness.present, Option.bind_eq_bind, Option.bind_eq_some_iff, Option.pure_def, Option.some.injEq] at hp
  obtain ⟨va, -, vb, -, vc, -, vd, -, vk, -, rfl⟩ := hp
  rfl

@[simp] theorem Harness.take_core (h : Harness) (i : Instr) (dst : Nat) (t : State) (rest : List Action) :
    (h.take i dst t rest).core = t := by
  unfold Harness.take
  split
  · rfl
  · split <;> rfl

@[simp] theorem Harness.take_program (h : Harness) (i : Instr) (dst : Nat) (t : State) (rest : List Action) :
    (h.take i dst t rest).program = rest := by
  unfold Harness.take
  split
  · rfl
  · split <;> rfl

/-- All one action of a run that goes on can be: nothing left to do, a write of CTRL, or a command presented, executed and
its response taken. -/
theorem Harness.step_cases (hst : h.step = .next g) :
    (h.program = [] ∧ g = h) ∨
    (∃ v rest, h.program = .writeCtrl v :: rest ∧ g = { h with core := { h.core with ctrl := v }, program := rest }) ∨
    (∃ w dst a b c k rest i s t, h.program = .command w dst a b c k :: rest ∧ decode w = .ok i ∧
      h.present i w dst a b c k = some s ∧ Sys2Proof.Machine.step s = .next t ∧ g = h.take i dst t rest) := by
  unfold Harness.step at hst
  split at hst
  · cases hst
  · split at hst
    case h_1 hprog =>
      cases hst
      exact .inl ⟨hprog, rfl⟩
    case h_2 hprog =>
      cases hst
      exact .inr (.inl ⟨_, _, hprog, rfl⟩)
    case h_3 hprog =>
      split at hst
      · cases hst
      · rename_i hdec
        split at hst
        · cases hst
        · rename_i hpres
          split at hst
          · rename_i hstep
            cases hst
            exact .inr (.inr ⟨_, _, _, _, _, _, _, _, _, _, hprog, hdec, hpres, hstep, rfl⟩)
          · cases hst
          · cases hst

/-! ### A run without a write of CTRL -/

theorem commandsOnly_tail {x : Action} {rest : List Action} (hc : commandsOnly (x :: rest)) : commandsOnly rest :=
  fun y hy => hc y (List.mem_cons_of_mem x hy)

/-- One action of a program without a write of CTRL lets CTRL gain flags and leaves such a program. -/
theorem Harness.step_ctrlGrows (hc : commandsOnly h.program) (hst : h.step = .next g) :
    CtrlGrows h.core.ctrl g.core.ctrl ∧ commandsOnly g.program := by
  rcases Harness.step_cases hst with
    ⟨-, rfl⟩ | ⟨v, rest, hprog, -⟩ | ⟨w, dst, a, b, c, k, rest, i, s, t, hprog, -, hpres, hstep, rfl⟩
  · exact ⟨CtrlGrows.refl _, hc⟩
  · rw [hprog] at hc
    exact absurd rfl (hc _ List.mem_cons_self v)
  · rw [hprog] at hc
    rw [Harness.take_core, Harness.take_program, ← Harness.present_ctrl hpres]
    exact ⟨ctrlGrows_of_step hstep, commandsOnly_tail hc⟩

/-- A run goes on by one action and then the rest of the run. -/
theorem Harness.run_succ_eq_next {n : Nat} (hr : h.run (n + 1) = .next g) :
    ∃ h', h.step = .next h' ∧ h'.run n = .next g := by
  unfold Harness.run at hr
  split at hr
  · exact ⟨_, ‹_›, hr⟩
  · cases hr
  · cases hr

/-- Settles O57, by induction on the length of the run: its first action keeps what the rest of it needs. -/
theorem controlRegisterOnlyGains : Obligations.ControlRegisterOnlyGains := by
  intro n
  induction n with
  | zero =>
    intro h g _ hr
    cases hr
    exact CtrlGrows.refl _
  | succ n ih =>
    intro h g hc hr
    obtain ⟨h', hst, hr'⟩ := Harness.run_succ_eq_next hr
    obtain ⟨hgrow, hc'⟩ := Harness.step_ctrlGrows hc hst
    exact hgrow.trans (ih h' g hc' hr')

end Sys2Proof.Machine
end

section
/-! SUPPORT. A command issued again on the state it left: the ports stand, CTRL has gained nothing but sticky flags, which no
context reads, and the merge of the same flags a second time is the OR it already was. -/

namespace Sys2Proof.Machine

variable {p : Prec} {form : Form} {op : Op} {f : Fields} {s t u : State}

/-! ### What the flags of CTRL do not reach (43_status_context.md R171) -/

/-- A bit of CTRL above the flags is a bit of its bits 15:6. -/
theorem getLsbD_eq_of_high_eq {c d : CtrlWord} (h : c.extractLsb' 6 10 = d.extractLsb' 6 10) {j : Nat}
    (hlow : 6 ≤ j) (hhigh : j < 16) : c.getLsbD j = d.getLsbD j := by
  have hbit (w : CtrlWord) : (w.extractLsb' 6 10).getLsbD (j - 6) = w.getLsbD j := by
    rw [BitVec.getLsbD_extractLsb', Nat.add_sub_cancel' hlow, decide_eq_true (by omega), Bool.true_and]
  rw [← hbit, ← hbit, h]

/-- A field of CTRL above the flags is a field of its bits 15:6. -/
theorem extractLsb'_eq_of_high_eq {c d : CtrlWord} (h : c.extractLsb' 6 10 = d.extractLsb' 6 10) {start len : Nat}
    (hlow : 6 ≤ start) (hhigh : start + len ≤ 16) : c.extractLsb' start len = d.extractLsb' start len := by
  apply BitVec.eq_of_getLsbD_eq
  intro j hj
  rw [BitVec.getLsbD_extractLsb', BitVec.getLsbD_extractLsb', getLsbD_eq_of_high_eq h (by omega) (by omega)]

/-- The fresh context is built from bits 15:6 of CTRL alone. -/
theorem fromControlRegister_eq_of_high_eq {c d : CtrlWord} (h : c.extractLsb' 6 10 = d.extractLsb' 6 10) :
    StatusContext.fromControlRegister c = StatusContext.fromControlRegister d := by
  have hrc : ctrlRc c = ctrlRc d := extractLsb'_eq_of_high_eq h (by decide) (by decide)
  have hmasks : ctrlMasks c = ctrlMasks d := extractLsb'_eq_of_high_eq h (by decide) (by decide)
  have hdaz : ctrlDaz c = ctrlDaz d := getLsbD_eq_of_high_eq h (by decide) (by decide)
  have hum : ctrlUm c = ctrlUm d := getLsbD_eq_of_high_eq h (by decide) (by decide)
  have hfz : ctrlFz c = ctrlFz d := getLsbD_eq_of_high_eq h (by decide) (by decide)
  simp only [StatusContext.fromControlRegister, hrc, hmasks, hdaz, hum, hfz]

/-- Sticky flags standing in CTRL do not reach the context a command's lanes run in. -/
theorem commandContext_eq_of_high_eq (op : Op) (f : Fields)
    (h : s.ctrl.extractLsb' 6 10 = u.ctrl.extractLsb' 6 10) : commandContext op f s = commandContext op f u := by
  simp only [commandContext, overridden, ambient, fromControlRegister_eq_of_high_eq h]

/-- The write-back is an OR: merging the same flags once more changes no bit (20_memory.md R55). -/
theorem mergedCtrl_mergedCtrl (c : CtrlWord) (fl : Flags) : mergedCtrl (mergedCtrl c fl) fl = mergedCtrl c fl := by
  rw [mergedCtrl, extractLsb'_mergedCtrl, ctrlFlags_mergedCtrl, BitVec.or_assoc, BitVec.or_self, mergedCtrl]

/-! ### The second command sees what the first one saw -/

namespace CommandAnswer

theorem laneArgs_eq (h : CommandAnswer p form op f s t) (n : Nat) : t.laneArgs p n = s.laneArgs p n := by
  simp only [State.laneArgs, h.a_eq, h.b_eq, h.c_eq, h.dprior_eq]

theorem commandContext_eq (h : CommandAnswer p form op f s t) : commandContext op f t = commandContext op f s := by
  obtain ⟨-, hhigh⟩ := h.ctrlGrows
  exact (commandContext_eq_of_high_eq op f hhigh).symm

theorem laneResult_eq (h : CommandAnswer p form op f s t) : laneResult p op f t = laneResult p op f s := by
  funext n
  rw [laneResult, laneResult, h.commandContext_eq, h.laneArgs_eq]

theorem endContext_eq (h : CommandAnswer p form op f s t) : endContext p form op f t = endContext p form op f s := by
  simp only [endContext, h.commandContext_eq, h.laneResult_eq, h.k_eq]

theorem resultLane_eq (h : CommandAnswer p form op f s t) : resultLane p op f t = resultLane p op f s := by
  funext n
  simp only [resultLane, h.laneResult_eq, h.dprior_eq, h.k_eq]

theorem resultBit_eq (h : CommandAnswer p form op f s t) : resultBit p op f t = resultBit p op f s := by
  funext n
  simp only [resultBit, h.laneResult_eq, h.k_eq]

/-- The second write-back leaves CTRL_OUT as the first one gave it. -/
theorem ctrlOut_reissue (h : CommandAnswer p form op f s t) (hu : CommandAnswer p form op f t u) :
    u.ctrlOut = t.ctrlOut := by
  rw [hu.ctrlOut_eq, h.endContext_eq, h.ctrl_eq, h.ctrlOut_eq, mergedCtrl_mergedCtrl]

theorem fault_reissue (h : CommandAnswer p form op f s t) (hu : CommandAnswer p form op f t u) : u.fault = t.fault := by
  rw [hu.fault_eq, h.endContext_eq, h.fault_eq]

end CommandAnswer

/-- Two answers of a command, the second given on the state the first one left, are one response. -/
theorem sameResponse_reissue {i : Instr} (h : CommandAnswer i.prec i.form i.op i.fields s t)
    (hu : CommandAnswer i.prec i.form i.op i.fields t u) : SameResponse i t u := by
  refine ⟨(h.ctrlOut_reissue hu).symm, ?_, (h.fault_reissue hu).symm, fun hno => ?_⟩
  · rw [hu.finalFlags_eq, h.endContext_eq, h.finalFlags_eq]
  · have hno' : u.fault = false := (h.fault_reissue hu).trans hno
    cases hm : i.op.isMask with
    | false =>
      change t.result = u.result
      rw [h.result_eq hm hno, hu.result_eq hm hno', h.resultLane_eq]
    | true =>
      change t.kresult = u.kresult
      rw [h.kresult_eq hm hno, hu.kresult_eq hm hno', h.resultBit_eq]

/-- Settles O21: the state a command leaves gives the command again all it read, and CTRL there already holds its flags. -/
theorem reissueIsIdempotent : Obligations.ReissueIsIdempotent := by
  intro i s
  obtain ⟨t, ht, h⟩ := exec_build_answer i.prec i.form i.op i.fields s
  obtain ⟨u, hu, h'⟩ := exec_build_answer i.prec i.form i.op i.fields t
  rw [build_parts] at ht hu
  exact ⟨t, u, ht, hu, sameResponse_reissue h h', by rw [h'.ctrl_eq, h.ctrl_eq, h.ctrlOut_reissue h']⟩

end Sys2Proof.Machine
end

section
/-! SUPPORT. The encoding: the word and the command record carry the same fields, the decoder reads an instruction off
exactly the records an instruction writes, and a record is legal exactly when an instruction writes it (30_encoding.md R71 to R75). -/

namespace Sys2Proof

open Machine

/-! ### Field codes (30_encoding.md R71, R72) -/

/-- An `op` field names an operation exactly when it is the operation's code. -/
theorem Op.ofCode_eq_some_iff (b : BitVec 5) (op : Op) : Op.ofCode b = some op ↔ b = op.code := by
  revert b
  cases op <;> decide

/-- Codes 0 to 19 name an operation, and no other (30_encoding.md R72). -/
theorem Op.exists_code_eq_iff (b : BitVec 5) : (∃ op : Op, b = op.code) ↔ b.toNat < 20 := by
  simp only [← Op.ofCode_eq_some_iff, ← Option.isSome_iff_exists]
  simp [Op.ofCode]

/-- A `vl` field names a class exactly when it is the class's code. -/
theorem VecLen.ofCode_eq_some_iff (b : BitVec 2) (vl : VecLen) : VecLen.ofCode b = some vl ↔ b = vl.code := by
  revert b
  cases vl <;> decide

/-- Every `vl` field but 3 names a class (30_encoding.md R71). -/
theorem VecLen.exists_code_eq_iff (b : BitVec 2) : (∃ vl : VecLen, b = vl.code) ↔ b ≠ 3#2 := by
  simp only [← VecLen.ofCode_eq_some_iff, ← Option.isSome_iff_exists]
  revert b
  decide

@[simp] theorem Prec.ofCode_code (p : Prec) : Prec.ofCode p.code = p := by cases p <;> rfl
@[simp] theorem Prec.code_ofCode (b : BitVec 1) : (Prec.ofCode b).code = b := by revert b; decide
@[simp] theorem Form.ofCode_code (form : Form) : Form.ofCode form.code = form := by cases form <;> rfl
@[simp] theorem Form.code_ofCode (b : BitVec 1) : (Form.ofCode b).code = b := by revert b; decide

theorem ofBool_decide_eq_one (b : BitVec 1) : BitVec.ofBool (decide (b = 1#1)) = b := by revert b; decide
theorem decide_ofBool_eq_one (b : Bool) : decide (BitVec.ofBool b = 1#1) = b := by cases b <;> decide

/-- A one-bit slice that holds a truth value is that bit of the word. -/
theorem eq_getLsbD_of_extractLsb'_eq {w : CmdWord} {j : Nat} {b : Bool} (h : w.extractLsb' j 1 = BitVec.ofBool b) :
    b = w.getLsbD j := by
  simpa using congrArg (BitVec.getLsbD · 0) h.symm

/-! ### The word and the record (30_encoding.md R71) -/

/-- The fields laid out in a word are read back from it: a slice of an append drops the fields below it. -/
theorem Command.ofWord_toWord (c : Command) : Command.ofWord c.toWord = c := by
  simp only [Command.ofWord, Command.toWord, BitVec.extractLsb'_append_eq_of_le (w := 5),
    BitVec.extractLsb'_append_eq_of_le (w := 1), BitVec.extractLsb'_append_eq_of_le (w := 2),
    BitVec.extractLsb'_append_eq_of_le (w := 8), BitVec.extractLsb'_append_eq_right, BitVec.extractLsb'_eq_self,
    Nat.reduceLeDiff, Nat.reduceSub]

/-- The nine fields hold every bit of the word. -/
theorem Command.toWord_ofWord (w : CmdWord) : (Command.ofWord w).toWord = w := by
  unfold Command.toWord Command.ofWord
  apply BitVec.eq_of_getLsbD_eq
  intro j hj
  simp only [BitVec.getLsbD_append, BitVec.getLsbD_extractLsb']
  interval_cases j <;> rfl

/-! ### Instructions and their records (30_encoding.md R71 to R75) -/

/-- The fields of the word an instruction encodes to are the fields of its record. -/
theorem ofWord_encode (i : Instr) : Command.ofWord (encode i) = i.command := Command.ofWord_toWord _

/-- The instruction a legal record names writes that record. -/
theorem command_build_of_record {c : Command} {op : Op} {vl : VecLen} (hop : c.op = op.code) (hvl : c.vl = vl.code)
    (hlow : c.rsvdLow = 0#5) (hhigh : c.rsvdHigh = 0#8) :
    (Instr.build ⟨vl, decide (c.maskEn = 1#1), decide (c.zero = 1#1), c.imm8⟩ op (Prec.ofCode c.prec)
      (Form.ofCode c.form)).command = c := by
  simp [Instr.command, ← hop, ← hvl, ← hlow, ← hhigh, ofBool_decide_eq_one]

/-- The decoder reads an instruction off exactly the words whose record the instruction writes. -/
theorem decode_eq_ok_iff_command (w : CmdWord) (i : Instr) : decode w = .ok i ↔ Command.ofWord w = i.command := by
  constructor
  · intro h
    simp only [decode] at h
    split at h
    next hrsvd =>
      obtain ⟨hlow, hhigh⟩ := hrsvd
      split at h
      next => cases h
      next => cases h
      next op vl hop hvl =>
        cases h
        rw [Op.ofCode_eq_some_iff] at hop
        rw [VecLen.ofCode_eq_some_iff] at hvl
        exact (command_build_of_record hop hvl hlow hhigh).symm
    next => cases h
  · intro h
    have hop : Op.ofCode i.op.code = some i.op := (Op.ofCode_eq_some_iff _ _).2 rfl
    have hvl : VecLen.ofCode i.fields.vl.code = some i.fields.vl := (VecLen.ofCode_eq_some_iff _ _).2 rfl
    simp only [decode, h, Instr.command, hop, hvl, decide_ofBool_eq_one, Prec.ofCode_code, Form.ofCode_code, and_self,
      if_true]
    exact congrArg Except.ok (build_parts i)

/-- Decoding and encoding are inverse: a word decodes to an instruction exactly when it is the instruction's own. -/
theorem decode_eq_ok_iff (w : CmdWord) (i : Instr) : decode w = .ok i ↔ w = encode i := by
  rw [decode_eq_ok_iff_command]
  constructor
  · intro h
    rw [encode, ← h, Command.toWord_ofWord]
  · rintro rfl
    exact ofWord_encode i

/-- The legal records are those some instruction writes: nothing legal is left without a meaning (30_encoding.md R75). -/
theorem Command.wellFormed_iff_exists_instr (c : Command) : c.wellFormed = true ↔ ∃ i : Instr, c = i.command := by
  simp only [Command.wellFormed, Command.opDefined, Command.vlDefined, Command.reservedClear, Bool.and_eq_true,
    decide_eq_true_eq, ← Op.exists_code_eq_iff, ← VecLen.exists_code_eq_iff]
  constructor
  · rintro ⟨⟨⟨op, hop⟩, vl, hvl⟩, hlow, hhigh⟩
    exact ⟨_, (command_build_of_record hop hvl hlow hhigh).symm⟩
  · rintro ⟨i, rfl⟩
    exact ⟨⟨⟨i.op, rfl⟩, i.fields.vl, rfl⟩, rfl, rfl⟩

/-- The decoder rejects exactly the words whose record is not legal. -/
theorem exists_decode_eq_error_iff (w : CmdWord) :
    (∃ why, decode w = .error why) ↔ (Command.ofWord w).wellFormed = false := by
  rw [← Bool.not_eq_true, Command.wellFormed_iff_exists_instr]
  simp only [← decode_eq_ok_iff_command]
  cases decode w with
  | error why => simp
  | ok i => simp

/-- What makes a record not legal, by its fields (30_encoding.md R75). -/
theorem Command.wellFormed_eq_false_iff (c : Command) :
    c.wellFormed = false ↔ 20 ≤ c.op.toNat ∨ c.vl = 3#2 ∨ c.rsvdLow ≠ 0#5 ∨ c.rsvdHigh ≠ 0#8 := by
  simp only [Command.wellFormed, Command.opDefined, Command.vlDefined, Command.reservedClear, Bool.and_eq_false_iff,
    decide_eq_false_iff_not, Nat.not_lt, ne_eq, Decidable.not_not, Decidable.not_and_iff_or_not, or_assoc]

/-! ### The statements -/

/-- Settles O1: the word an instruction encodes to is its own word. -/
theorem decodeOfEncode : Obligations.DecodeOfEncode := fun i => (decode_eq_ok_iff _ i).2 rfl

/-- Settles O2: the decoder rejects exactly the records that are not legal, and a step passes the rejection on. -/
theorem reservedCommandsAreRefused : Obligations.ReservedCommandsAreRefused := by
  refine ⟨fun w => (exists_decode_eq_error_iff w).trans (Command.wellFormed_eq_false_iff _), ?_⟩
  intro s w why hcmd hdec
  simp only [step, State.fetch, hcmd, hdec]

/-- Settles O3: the word is the instruction's own, so its slices are the fields of the instruction's record. -/
theorem fieldsOfTheWord : Obligations.FieldsOfTheWord := by
  intro w i h
  have hsel : w &&& 0xFF00F87F#32 = Laws.Selection.matchWord i := by
    rw [(decode_eq_ok_iff w i).1 h]
    exact Laws.Selection.toWord_selection ..
  rw [decode_eq_ok_iff_command] at h
  simp only [Command.ofWord, Instr.command, Command.mk.injEq] at h
  obtain ⟨hop, hprec, hform, hvl, hmask, hzero, -, himm, -⟩ := h
  exact ⟨hop.symm, hprec.symm, hform.symm, hvl.symm, eq_getLsbD_of_extractLsb'_eq hmask,
    eq_getLsbD_of_extractLsb'_eq hzero, himm.symm, hsel⟩

/-- Settles O4: each word is the one the command encodes to. -/
theorem sampleWordsDecode : Obligations.SampleWordsDecode := by
  unfold Obligations.SampleWordsDecode
  simp only [decode_eq_ok_iff]
  decide

end Sys2Proof
end

section
/-! SUPPORT. Two commands of one operation that read the same of their fields and ports give one answer: what the mask fields
without a mask operand and the unread bits of the immediate byte come to (30_encoding.md R74, R76 to R83). -/

namespace Sys2Proof.Machine

variable {p : Prec} {form : Form} {op : Op} {f g : Fields} {s u : State}

/-! ### Commands that differ in their fields -/

/-- A command of fields `f` in `s` and one of fields `g` in `u` do the same: one class, one control register, one context,
the same lanes active with the same results, and, where a lane is not, one mask policy and one prior destination. -/
structure SameLanes (p : Prec) (form : Form) (op : Op) (f g : Fields) (s u : State) : Prop where
  vl_eq : f.vl = g.vl
  ctrl_eq : s.ctrl = u.ctrl
  dprior_eq : s.dprior = u.dprior
  context_eq : commandContext op f s = commandContext op g u
  lane_eq : ∀ n, laneResult p op f s n = laneResult p op g u n
  active_eq : ∀ n < form.loopLanes f.vl p, laneActive f s.k n = laneActive g u.k n
  policy_eq : op.isMask = false → ∀ n < form.loopLanes f.vl p, laneActive f s.k n = false → zeroPolicy f = zeroPolicy g

namespace SameLanes

variable (h : SameLanes p form op f g s u)
include h

theorem endContext_eq : endContext p form op f s = endContext p form op g u := by
  unfold endContext
  rw [← h.context_eq, ← h.vl_eq]
  refine accumulate_congr _ fun n hn => ?_
  rw [activeFlags, activeFlags, h.active_eq n hn, h.lane_eq]

theorem packLanes_eq (hm : op.isMask = false) : packLanes (resultLane p op f s) (form.loopLanes f.vl p) =
    packLanes (resultLane p op g u) (form.loopLanes g.vl p) := by
  rw [← h.vl_eq]
  refine packLanes_congr fun n hn => ?_
  unfold resultLane blend
  rw [← h.active_eq n hn, h.lane_eq, h.dprior_eq]
  cases hact : laneActive f s.k n with
  | true => rfl
  | false => rw [h.policy_eq hm n hn hact]

theorem packBits_eq : packBits (resultBit p op f s) (form.loopLanes f.vl p) =
    packBits (resultBit p op g u) (form.loopLanes g.vl p) := by
  rw [← h.vl_eq]
  refine packBits_congr fun n hn => ?_
  rw [resultBit, resultBit, h.active_eq n hn, h.lane_eq]

theorem sameAnswer : SameAnswer (Instr.build f op p form) (Instr.build g op p form) s u := by
  obtain ⟨t, ht, hs⟩ := exec_build_answer p form op f s
  obtain ⟨v, hv, hu⟩ := exec_build_answer p form op g u
  have hfault : t.fault = v.fault := by rw [hs.fault_eq, hu.fault_eq, h.endContext_eq]
  refine ⟨t, v, ht, hv, ?_, ?_, hfault, fun hno => ?_⟩
  · rw [hs.ctrlOut_eq, hu.ctrlOut_eq, h.endContext_eq, h.ctrl_eq]
  · rw [hs.finalFlags_eq, hu.finalFlags_eq, h.endContext_eq]
  · rw [build_op]
    cases hm : op.isMask with
    | false =>
      change t.result = v.result
      rw [hs.result_eq hm hno, hu.result_eq hm (hfault ▸ hno), h.packLanes_eq hm]
    | true =>
      change t.kresult = v.kresult
      rw [hs.kresult_eq hm hno, hu.kresult_eq hm (hfault ▸ hno), h.packBits_eq]

end SameLanes

/-! ### The mask fields (30_encoding.md R74, 44_lanes_masking.md R195) -/

theorem laneActive_of_maskEn_eq_false (h : f.maskEn = false) (k : MaskWord) (n : Nat) : laneActive f k n = true := by
  simp [laneActive, h]

theorem laneActive_allOnes (f : Fields) {n : Nat} (hn : n < 32) : laneActive f (BitVec.allOnes 32) n = true := by
  rw [laneActive, BitVec.getLsbD_allOnes, decide_eq_true hn, Bool.or_true]

/-- Without a mask operand every lane is active, as under a mask of all ones, so no lane asks for the mask policy. -/
theorem sameLanes_allOnes (p : Prec) (form : Form) (op : Op) (f : Fields) (s : State) :
    SameLanes p form op { f with maskEn := false } { f with maskEn := true, zero := true } s
      { s with k := BitVec.allOnes 32 } where
  vl_eq := rfl
  ctrl_eq := rfl
  dprior_eq := rfl
  context_eq := rfl
  lane_eq _ := rfl
  active_eq n hn := by
    have hlanes : n < 16 := Nat.lt_of_lt_of_le hn (loopLanes_le form f.vl p)
    rw [laneActive_of_maskEn_eq_false rfl, laneActive_allOnes _ (by omega)]
  policy_eq _ n _ hact := by
    rw [laneActive_of_maskEn_eq_false rfl] at hact
    cases hact

/-- The field `zero` is the policy of a masked-off lane of a container result, and no part of anything else. -/
theorem sameLanes_zero (p : Prec) (form : Form) (s : State) (z : Bool) (h : f.maskEn = false ∨ op.isMask = true) :
    SameLanes p form op f { f with zero := z } s s where
  vl_eq := rfl
  ctrl_eq := rfl
  dprior_eq := rfl
  context_eq := rfl
  lane_eq _ := rfl
  active_eq _ _ := rfl
  policy_eq hm n _ hact := by
    rcases h with hno | hmask
    · rw [laneActive_of_maskEn_eq_false hno] at hact
      cases hact
    · rw [hm] at hmask
      cases hmask

/-- Settles O17: in both parts the two commands have the same lanes, and no lane reads the fields they differ in. -/
theorem maskFields : Obligations.MaskFields := fun op p form f s =>
  ⟨(sameLanes_allOnes p form op f s).sameAnswer, fun z h => (sameLanes_zero p form s z h).sameAnswer⟩

/-! ### The immediate byte (30_encoding.md R76 to R83) -/

section Immediate

variable {w : Nat} {x y m : BitVec w}

theorem getLsbD_eq_of_and_eq (h : x &&& m = y &&& m) {j : Nat} (hj : m.getLsbD j = true) :
    x.getLsbD j = y.getLsbD j := by
  simpa [hj] using congrArg (BitVec.getLsbD · j) h

theorem extractLsb'_eq_of_and_eq (h : x &&& m = y &&& m) {start len : Nat}
    (hm : ∀ j < len, m.getLsbD (start + j) = true) : x.extractLsb' start len = y.extractLsb' start len := by
  apply BitVec.eq_of_getLsbD_eq
  intro j hj
  rw [BitVec.getLsbD_extractLsb', BitVec.getLsbD_extractLsb', getLsbD_eq_of_and_eq h (hm j hj)]

end Immediate

/-- An operation that reads the whole immediate byte is told nothing less than the byte. -/
theorem eq_of_immediateRead_all {x y : BitVec 8} (hall : immediateRead op = BitVec.allOnes 8)
    (h : x &&& immediateRead op = y &&& immediateRead op) : x = y := by
  rwa [hall, BitVec.and_allOnes, BitVec.and_allOnes] at h

/-- A lane function reads of the immediate byte only the sub-fields its operation defines. -/
theorem laneOp_eq_of_immediateRead (op : Op) (sc : StatusContext) (a : LaneArgs p) {x y : BitVec 8}
    (h : x &&& immediateRead op = y &&& immediateRead op) : laneOp op sc x a = laneOp op sc y a := by
  cases op with
  | cmp =>
    have hpred : immPredicate x = immPredicate y := extractLsb'_eq_of_and_eq h (by decide)
    simp only [laneOp, cmpLane, hpred]
  | getmant =>
    have hsign : immSignCtrl x = immSignCtrl y := extractLsb'_eq_of_and_eq h (by decide)
    have hint : immInterval x = immInterval y := extractLsb'_eq_of_and_eq h (by decide)
    simp only [laneOp, getmantLane, hsign, hint]
  | range =>
    have hsign : immSignCtrl x = immSignCtrl y := extractLsb'_eq_of_and_eq h (by decide)
    have hmax : immSelectMax x = immSelectMax y := getLsbD_eq_of_and_eq h (by decide)
    have habs : immSelectAbs x = immSelectAbs y := getLsbD_eq_of_and_eq h (by decide)
    simp only [laneOp, rangeLane, hsign, hmax, habs]
  | fixupimm | fpclass | reduce | rndscale => rw [eq_of_immediateRead_all rfl h]
  | add | sub | mul | div | min | max | sqrt | fmadd | fmsub | fnmadd | fnmsub | getexp | scalef => rfl

/-- The two operations that take a rounding override read the whole byte; the context of any other has no part of it. -/
theorem commandContext_eq_of_immediateRead (s : State) {y : BitVec 8}
    (h : f.imm8 &&& immediateRead op = y &&& immediateRead op) :
    commandContext op f s = commandContext op { f with imm8 := y } s := by
  unfold commandContext
  split
  case isTrue hop =>
    have hall : immediateRead op = BitVec.allOnes 8 := by rcases hop with rfl | rfl <;> rfl
    rw [overridden, overridden, eq_of_immediateRead_all hall h]
  case isFalse => rfl

/-- Settles O19: neither the context nor the lanes of a command read a bit outside `immediateRead`. -/
theorem undefinedImmediateBitsIgnored : Obligations.UndefinedImmediateBitsIgnored := by
  intro op p form f y s h
  have hctx := commandContext_eq_of_immediateRead s h
  refine SameLanes.sameAnswer
    { vl_eq := rfl, ctrl_eq := rfl, dprior_eq := rfl, context_eq := hctx, lane_eq := fun n => ?_,
      active_eq := fun _ _ => rfl, policy_eq := fun _ _ _ _ => rfl }
  rw [laneResult, laneResult, ← hctx]
  exact laneOp_eq_of_immediateRead op _ _ h

end Sys2Proof.Machine
end

section
/-! SUPPORT. The three fields of a lane: they determine it, and `pack`, `withSign`, `negLane`, `daz` and the named lanes
are said in them once (40_numerics.md R101 to R104). -/

namespace Sys2Proof.Machine

variable {p : Prec}

/-! ### A lane is its sign, exponent and fraction -/

theorem expf_lt (v : Lane p) : expf v < 2 ^ p.eb := (v.extractLsb' p.fb p.eb).isLt

theorem frac_lt (v : Lane p) : frac v < 2 ^ p.fb := (v.extractLsb' 0 p.fb).isLt

theorem eall_lt (p : Prec) : p.eall < 2 ^ p.eb := by cases p <;> decide

theorem eall_pos (p : Prec) : 0 < p.eall := by cases p <;> decide

theorem expf_le_eall (v : Lane p) : expf v ≤ p.eall := by
  have h := expf_lt v
  cases p <;> exact Nat.le_of_lt_succ h

theorem expf_eq_div_mod (v : Lane p) : expf v = v.toNat / 2 ^ p.fb % 2 ^ p.eb := by
  rw [expf, BitVec.extractLsb'_toNat, Nat.shiftRight_eq_div_pow]

theorem frac_eq_mod (v : Lane p) : frac v = v.toNat % 2 ^ p.fb := by
  rw [frac, BitVec.extractLsb'_toNat, Nat.shiftRight_zero]

theorem sign_toNat_eq_div (v : Lane p) : (sign v).toNat = v.toNat / 2 ^ (p.width - 1) := by
  have hlt : v.toNat < 2 ^ p.width := v.isLt
  rw [sign, BitVec.msb_eq_decide]
  by_cases h : 2 ^ (p.width - 1) ≤ v.toNat
  · rw [decide_eq_true h]
    cases p <;> simp only [Prec.width, Bool.toNat_true] at hlt h ⊢ <;> omega
  · rw [decide_eq_false h]
    exact (Nat.div_eq_of_lt (Nat.lt_of_not_le h)).symm

theorem toNat_eq_fields (v : Lane p) :
    v.toNat = (sign v).toNat * 2 ^ (p.width - 1) + expf v * 2 ^ p.fb + frac v := by
  have hlt : v.toNat < 2 ^ p.width := v.isLt
  rw [sign_toNat_eq_div, expf_eq_div_mod, frac_eq_mod]
  cases p <;> simp only [Prec.width, Prec.fb, Prec.eb] at hlt ⊢ <;> omega

/-- Lanes with the same three fields are the same. -/
theorem lane_ext {v w : Lane p} (hs : sign v = sign w) (he : expf v = expf w) (hf : frac v = frac w) : v = w := by
  apply BitVec.eq_of_toNat_eq
  rw [toNat_eq_fields v, toNat_eq_fields w, hs, he, hf]

/-! ### `pack` -/

section Pack

variable (s : Bool) {e f : Nat} (he : e < 2 ^ p.eb) (hf : f < 2 ^ p.fb)
include he hf

theorem toNat_pack : (pack s e f : Lane p).toNat = s.toNat * 2 ^ (p.width - 1) + e * 2 ^ p.fb + f := by
  rw [pack, BitVec.toNat_ofNat]
  apply Nat.mod_eq_of_lt
  have hs : s.toNat ≤ 1 := Bool.toNat_le s
  cases p <;> simp only [Prec.width, Prec.fb, Prec.eb] at he hf ⊢ <;> omega

theorem sign_pack : sign (pack s e f : Lane p) = s := by
  have hs : (sign (pack s e f : Lane p)).toNat = s.toNat := by
    rw [sign_toNat_eq_div, toNat_pack s he hf]
    cases p <;> simp only [Prec.width, Prec.fb, Prec.eb] at he hf ⊢ <;> omega
  revert hs
  cases sign (pack s e f : Lane p) <;> cases s <;> simp

theorem expf_pack : expf (pack s e f : Lane p) = e := by
  rw [expf_eq_div_mod, toNat_pack s he hf]
  cases p <;> simp only [Prec.width, Prec.fb, Prec.eb] at he hf ⊢ <;> omega

theorem frac_pack : frac (pack s e f : Lane p) = f := by
  rw [frac_eq_mod, toNat_pack s he hf]
  cases p <;> simp only [Prec.width, Prec.fb, Prec.eb] at he hf ⊢ <;> omega

end Pack

/-! ### The sign bit -/

theorem withSign_eq_pack (v : Lane p) (s : Bool) : withSign v s = pack s (expf v) (frac v) := by
  have hmod : v.toNat % 2 ^ (p.width - 1) = expf v * 2 ^ p.fb + frac v := by
    rw [expf_eq_div_mod, frac_eq_mod]
    cases p <;> simp only [Prec.width, Prec.fb, Prec.eb] <;> omega
  rw [withSign, pack, hmod, Nat.add_assoc]

@[simp] theorem sign_withSign (v : Lane p) (s : Bool) : sign (withSign v s) = s := by
  rw [withSign_eq_pack, sign_pack s (expf_lt v) (frac_lt v)]

@[simp] theorem expf_withSign (v : Lane p) (s : Bool) : expf (withSign v s) = expf v := by
  rw [withSign_eq_pack, expf_pack s (expf_lt v) (frac_lt v)]

@[simp] theorem frac_withSign (v : Lane p) (s : Bool) : frac (withSign v s) = frac v := by
  rw [withSign_eq_pack, frac_pack s (expf_lt v) (frac_lt v)]

@[simp] theorem sign_negLane (v : Lane p) : sign (negLane v) = !sign v := sign_withSign _ _

@[simp] theorem isInf_negLane (v : Lane p) : isInf (negLane v) = isInf v := by simp [isInf, negLane]
@[simp] theorem isDenorm_negLane (v : Lane p) : isDenorm (negLane v) = isDenorm v := by simp [isDenorm, negLane]
@[simp] theorem isFinite_negLane (v : Lane p) : isFinite (negLane v) = isFinite v := by simp [isFinite, negLane]

@[simp] theorem magUnits_negLane (v : Lane p) : magUnits (negLane v) = magUnits v := by simp [magUnits, negLane]

/-! ### The named lanes -/

@[simp] theorem sign_signedZero (s : Bool) : sign (signedZero s : Lane p) = s :=
  sign_pack s (Nat.two_pow_pos _) (Nat.two_pow_pos _)
@[simp] theorem expf_signedZero (s : Bool) : expf (signedZero s : Lane p) = 0 :=
  expf_pack s (Nat.two_pow_pos _) (Nat.two_pow_pos _)
@[simp] theorem frac_signedZero (s : Bool) : frac (signedZero s : Lane p) = 0 :=
  frac_pack s (Nat.two_pow_pos _) (Nat.two_pow_pos _)

@[simp] theorem sign_infinity (s : Bool) : sign (infinity s : Lane p) = s :=
  sign_pack s (eall_lt p) (Nat.two_pow_pos _)
@[simp] theorem expf_infinity (s : Bool) : expf (infinity s : Lane p) = p.eall :=
  expf_pack s (eall_lt p) (Nat.two_pow_pos _)
@[simp] theorem frac_infinity (s : Bool) : frac (infinity s : Lane p) = 0 :=
  frac_pack s (eall_lt p) (Nat.two_pow_pos _)

theorem isZero_iff (v : Lane p) : isZero v = true ↔ v = signedZero (sign v) := by
  constructor
  · intro h
    simp only [isZero, Bool.and_eq_true, beq_iff_eq] at h
    obtain ⟨he, hf⟩ := h
    exact lane_ext (by simp) (by simp [he]) (by simp [hf])
  · intro h
    rw [h]
    simp [isZero]

theorem isInf_iff (v : Lane p) : isInf v = true ↔ v = infinity (sign v) := by
  constructor
  · intro h
    simp only [isInf, Bool.and_eq_true, beq_iff_eq] at h
    obtain ⟨he, hf⟩ := h
    exact lane_ext (by simp) (by simp [he]) (by simp [hf])
  · intro h
    rw [h]
    simp [isInf]

@[simp] theorem isInf_infinity (s : Bool) : isInf (infinity s : Lane p) = true := by simp [isInf]
@[simp] theorem isZero_signedZero (s : Bool) : isZero (signedZero s : Lane p) = true := by simp [isZero]

/-! ### What the classes of R102 exclude -/

theorem isNaN_eq_false_of_expf_eq_zero {v : Lane p} (h : expf v = 0) : isNaN v = false := by
  simp [isNaN, h, (eall_pos p).ne]

theorem isFinite_of_expf_eq_zero {v : Lane p} (h : expf v = 0) : isFinite v = true := by
  simp [isFinite, h, (eall_pos p).ne]

theorem isInf_eq_false_of_isFinite {v : Lane p} (h : isFinite v = true) : isInf v = false := by
  simp only [isFinite, bne_iff_ne] at h
  simp [isInf, h]

theorem isNaN_eq_false_of_isFinite {v : Lane p} (h : isFinite v = true) : isNaN v = false := by
  simp only [isFinite, bne_iff_ne] at h
  simp [isNaN, h]

theorem isDenorm_eq_false_of_isInf {v : Lane p} (h : isInf v = true) : isDenorm v = false := by
  simp only [isInf, Bool.and_eq_true, beq_iff_eq] at h
  simp [isDenorm, h.1, (eall_pos p).ne']

theorem isDenorm_eq_false_of_isZero {v : Lane p} (h : isZero v = true) : isDenorm v = false := by
  simp only [isZero, Bool.and_eq_true, beq_iff_eq] at h
  simp [isDenorm, h.2]

theorem expf_eq_zero_of_isDenorm {v : Lane p} (h : isDenorm v = true) : expf v = 0 := by
  simp only [isDenorm, Bool.and_eq_true, beq_iff_eq] at h
  exact h.1

/-! ### `daz` -/

theorem flushDenormal_of_isDenorm {v : Lane p} (h : isDenorm v = true) :
    flushDenormal true v = signedZero (sign v) := by
  simp [flushDenormal, h]

theorem flushDenormal_of_not_isDenorm (on : Bool) {v : Lane p} (h : isDenorm v = false) : flushDenormal on v = v := by
  simp [flushDenormal, h]

@[simp] theorem isDenorm_flushDenormal (v : Lane p) : isDenorm (flushDenormal true v) = false := by
  cases h : isDenorm v with
  | true => rw [flushDenormal_of_isDenorm h, isDenorm_eq_false_of_isZero (isZero_signedZero _)]
  | false => rw [flushDenormal_of_not_isDenorm _ h, h]

/-- Flushing twice flushes once. -/
theorem flushDenormal_flushDenormal (v : Lane p) : flushDenormal true (flushDenormal true v) = flushDenormal true v :=
  flushDenormal_of_not_isDenorm _ (isDenorm_flushDenormal v)

/-- A flushed lane has the class of the lane, where that is neither a denormal nor a zero. -/
theorem flushDenormal_cases (on : Bool) (v : Lane p) :
    flushDenormal on v = v ∨ (expf v = 0 ∧ expf (flushDenormal on v) = 0) := by
  cases h : on && isDenorm v with
  | true =>
    simp only [Bool.and_eq_true] at h
    obtain ⟨rfl, hv⟩ := h
    exact .inr ⟨expf_eq_zero_of_isDenorm hv, by rw [flushDenormal_of_isDenorm hv, expf_signedZero]⟩
  | false => exact .inl (by simp [flushDenormal, h])

@[simp] theorem isNaN_flushDenormal (on : Bool) (v : Lane p) : isNaN (flushDenormal on v) = isNaN v := by
  rcases flushDenormal_cases on v with h | ⟨hv, hf⟩
  · rw [h]
  · rw [isNaN_eq_false_of_expf_eq_zero hv, isNaN_eq_false_of_expf_eq_zero hf]

@[simp] theorem isInf_flushDenormal (on : Bool) (v : Lane p) : isInf (flushDenormal on v) = isInf v := by
  rcases flushDenormal_cases on v with h | ⟨hv, hf⟩
  · rw [h]
  · rw [isInf_eq_false_of_isFinite (isFinite_of_expf_eq_zero hv),
      isInf_eq_false_of_isFinite (isFinite_of_expf_eq_zero hf)]

@[simp] theorem isSNaN_flushDenormal (on : Bool) (v : Lane p) : isSNaN (flushDenormal on v) = isSNaN v := by
  rcases flushDenormal_cases on v with h | ⟨hv, hf⟩
  · rw [h]
  · rw [isSNaN, isSNaN, isNaN_eq_false_of_expf_eq_zero hv, isNaN_eq_false_of_expf_eq_zero hf, Bool.false_and,
      Bool.false_and]

@[simp] theorem isNaN_daz (sc : StatusContext) (v : Lane p) : isNaN (daz sc v) = isNaN v := isNaN_flushDenormal _ v
@[simp] theorem isInf_daz (sc : StatusContext) (v : Lane p) : isInf (daz sc v) = isInf v := isInf_flushDenormal _ v
@[simp] theorem isSNaN_daz (sc : StatusContext) (v : Lane p) : isSNaN (daz sc v) = isSNaN v := isSNaN_flushDenormal _ v

/-! ### Quieted NaNs (40_numerics.md R107) -/

theorem fb_pred_lt_width (p : Prec) : p.fb - 1 < p.width := by cases p <;> decide

@[simp] theorem isSNaN_quiet (v : Lane p) : isSNaN (quiet v) = false := by
  simp [isSNaN, quiet, fb_pred_lt_width p]

end Sys2Proof.Machine
end

section
/-! SUPPORT. NaN operands and the invalid operations: the lane functions test for them before anything else, so each
answers `prop1`, `prop2`, `prop3` or the default NaN (40_numerics.md R106 to R110). -/

namespace Sys2Proof.Machine

variable {p : Prec} {form : Form} {f : Fields} {s : State} {n : Nat} {op : Op}

@[simp] theorem ofValue_val (r : LaneOut p) : (LaneResult.ofValue r).val = r.val := rfl
@[simp] theorem ofValue_flags (r : LaneOut p) : (LaneResult.ofValue r).flags = r.flags := rfl
@[simp] theorem prop1_val (a : Lane p) : (prop1 a).val = quiet a := rfl
@[simp] theorem prop1_flags (a : Lane p) : (prop1 a).flags = flagIf (isSNaN a) flagI := rfl

/-! ### An active lane of a command, by the value and the flags of its lane function -/

theorem laneAnswers_of_eq {v : Lane p} {fl : Flags} (hact : ActiveLane p form f s n) (hm : op.isMask = false)
    (hv : (laneResult p op f s n).val = v)
    (hf : (laneResult p op f s n).flags &&& ~~~(commandContext op f s).suppressFlags = fl) :
    LaneAnswers p (Instr.build f op p form) s n v fl := by
  subst hv hf
  exact laneAnswers_build op form f s n hm hact

/-- Every operation but REDUCE and RNDSCALE runs its lanes in the ambient context. -/
theorem commandContext_eq_ambient (h : overrideOf op f = none) : commandContext op f s = ambient s := by
  rw [← buildContext_overrideOf, h]
  rfl

/-- Without an override nothing is suppressed: the lane reports the flags of its lane function. -/
theorem laneAnswers_ambient {r : LaneOut p} (hact : ActiveLane p form f s n) (hm : op.isMask = false)
    (ho : overrideOf op f = none)
    (hr : laneOp op (ambient s) f.imm8 (s.laneArgs p n) = .ofValue r) :
    LaneAnswers p (Instr.build f op p form) s n r.val r.flags := by
  have hlane : laneResult p op f s n = .ofValue r := by rw [laneResult, commandContext_eq_ambient ho, hr]
  refine laneAnswers_of_eq hact hm (by rw [hlane]; rfl) ?_
  have hsup : (ambient s).suppressFlags = 0#6 := rfl
  rw [hlane, commandContext_eq_ambient ho, hsup, BitVec.not_zero, BitVec.and_allOnes]
  rfl

/-- An override suppresses `P` alone. -/
theorem suppressFlags_overridden (f : Fields) (s : State) :
    (overridden f s).suppressFlags = flagIf (f.imm8.getLsbD 3) flagP := BitVec.zero_or

theorem flagI_and_not_suppressed (b c : Bool) : flagIf b flagI &&& ~~~flagIf c flagP = flagIf b flagI := by
  cases b <;> cases c <;> decide

/-! ### NaN operands -/

/-- `prop2` of flushed operands: a NaN is not flushed. -/
theorem prop2_daz (sc : StatusContext) {a b : Lane p} (h : isNaN a = true ∨ isNaN b = true) :
    prop2 (daz sc a) (daz sc b) =
      { val := quiet (if isNaN a then a else b), flags := flagIf (isSNaN a || isSNaN b) flagI } := by
  cases ha : isNaN a with
  | true => simp [prop2, ha, daz_of_isNaN sc a ha]
  | false =>
    have hb : isNaN b = true := h.resolve_left (by simp [ha])
    simp [prop2, ha, daz_of_isNaN sc b hb]

/-- `prop3` of flushed operands. -/
theorem prop3_daz (sc : StatusContext) {a b c : Lane p} (h : isNaN a = true ∨ isNaN b = true ∨ isNaN c = true) :
    prop3 (daz sc a) (daz sc b) (daz sc c) =
      { val := quiet (if isNaN a then a else if isNaN b then b else c)
        flags := flagIf (isSNaN a || isSNaN b || isSNaN c) flagI } := by
  cases ha : isNaN a with
  | true => simp [prop3, ha, daz_of_isNaN sc a ha]
  | false =>
    cases hb : isNaN b with
    | true => simp [prop3, ha, hb, daz_of_isNaN sc b hb]
    | false =>
      have hc : isNaN c = true := by simpa [ha, hb] using h
      simp [prop3, ha, hb, daz_of_isNaN sc c hc]

/-- ADD, SUB, MUL, DIV and SCALEF test for a NaN first. -/
theorem laneOp_of_isNaN (sc : StatusContext) (imm8 : BitVec 8) (x : LaneArgs p)
    (hop : op = .add ∨ op = .sub ∨ op = .mul ∨ op = .div ∨ op = .scalef)
    (h : isNaN x.a = true ∨ isNaN x.b = true) :
    laneOp op sc imm8 x = .ofValue (prop2 (daz sc x.a) (daz sc x.b)) := by
  have hnan : (isNaN x.a || isNaN x.b) = true := by simpa using h
  rcases hop with rfl | rfl | rfl | rfl | rfl
  · simp [laneOp, addLane, add, hnan]
  · simp [laneOp, subLane, sub, hnan]
  · simp [laneOp, mulLane, mul, hnan]
  · simp [laneOp, divLane, div, hnan]
  · simp [laneOp, scalefLane, scalef, hnan]

/-- REDUCE of a NaN subtracts the quieted NaN from it, and the first of the two wins. -/
theorem reduce_of_isNaN (sc : StatusContext) {a : Lane p} (imm8 : BitVec 8) (h : isNaN a = true) :
    reduce sc a imm8 = prop1 a := by
  have hinf : isInf a = false := by
    simp only [isNaN, Bool.and_eq_true, beq_iff_eq, bne_iff_ne] at h
    simp [isInf, h.2]
  have hround : roundToInt sc a (immScale imm8) = prop1 a := by simp [roundToInt, h]
  have hsub : sub sc a (quiet a) = prop1 a := by
    have hprop : sub sc a (quiet a) = prop2 (daz sc a) (daz sc (quiet a)) := by simp [sub, h]
    rw [hprop, prop2_daz sc (.inl h)]
    simp [prop1, h]
  rw [reduce, hround, hinf]
  change (sub sc a (quiet a)).raise _ = _
  rw [hsub]
  simp [prop1, LaneOut.raise]

/-- SQRT, GETEXP, GETMANT and RNDSCALE test for a NaN first. -/
theorem laneOp_of_isNaN_one (sc : StatusContext) (imm8 : BitVec 8) (x : LaneArgs p)
    (hop : op = .sqrt ∨ op = .getexp ∨ op = .getmant ∨ op = .rndscale) (h : isNaN x.a = true) :
    laneOp op sc imm8 x = .ofValue (prop1 x.a) := by
  have hdaz : daz sc x.a = x.a := daz_of_isNaN sc x.a h
  rcases hop with rfl | rfl | rfl | rfl
  · simp [laneOp, sqrtLane, sqrt, hdaz, h]
  · simp [laneOp, getexpLane, getexp, hdaz, h]
  · simp [laneOp, getmantLane, getmant, hdaz, h]
  · simp [laneOp, rndscaleLane, rndscale, roundToInt, h]

/-- Settles O27: `prop2` of the two operands; for REDUCE the operand and the NaN it rounds to. -/
theorem twoOperandNaN : Obligations.TwoOperandNaN := by
  intro p form f s n hact
  refine ⟨fun op hop h => ?_, fun h => ?_⟩
  · have hm : op.isMask = false := by rcases hop with rfl | rfl | rfl | rfl | rfl <;> rfl
    have ho : overrideOf op f = none := by rcases hop with rfl | rfl | rfl | rfl | rfl <;> rfl
    exact laneAnswers_ambient hact hm ho ((laneOp_of_isNaN (ambient s) f.imm8 (s.laneArgs p n) hop h).trans
      (congrArg LaneResult.ofValue (prop2_daz (ambient s) h)))
  · have hlane : laneResult p .reduce f s n = .ofValue (prop1 (laneOf p s.a n)) :=
      congrArg LaneResult.ofValue (reduce_of_isNaN (overridden f s) f.imm8 h)
    refine laneAnswers_of_eq hact rfl (by rw [hlane]; rfl) ?_
    have hsup : (commandContext .reduce f s).suppressFlags = flagIf (f.imm8.getLsbD 3) flagP :=
      suppressFlags_overridden f s
    rw [hlane, hsup, ofValue_flags, prop1_flags, flagI_and_not_suppressed]

/-- Settles O28: each of the four answers `prop1`. -/
theorem oneOperandNaN : Obligations.OneOperandNaN := by
  intro p form f s n op hact hop h
  have hm : op.isMask = false := by rcases hop with rfl | rfl | rfl | rfl <;> rfl
  have hlane : laneResult p op f s n = .ofValue (prop1 (laneOf p s.a n)) := laneOp_of_isNaN_one _ _ _ hop h
  have hsup : ∃ b, (commandContext op f s).suppressFlags = flagIf b flagP := by
    rcases hop with rfl | rfl | rfl | rfl
    · exact ⟨false, rfl⟩
    · exact ⟨false, rfl⟩
    · exact ⟨false, rfl⟩
    · exact ⟨_, suppressFlags_overridden f s⟩
  obtain ⟨b, hb⟩ := hsup
  refine laneAnswers_of_eq hact hm (by rw [hlane]; rfl) ?_
  rw [hlane, hb, ofValue_flags, prop1_flags, flagI_and_not_suppressed]

/-! ### The four fused operations as one (42_fma.md R160 to R164) -/

/-- FNMADD and FNMSUB negate the product (42_fma.md R163, R164). -/
def negatesProduct (op : Op) : Bool := op = .fnmadd || op = .fnmsub

/-- FMSUB and FNMSUB negate the addend (42_fma.md R162, R164). -/
def negatesAddend (op : Op) : Bool := op = .fmsub || op = .fnmsub

section Fma

variable (hop : isFma op)
include hop

theorem isMask_of_isFma : op.isMask = false := by rcases hop with rfl | rfl | rfl | rfl <;> rfl

theorem overrideOf_of_isFma (f : Fields) : overrideOf op f = none := by
  rcases hop with rfl | rfl | rfl | rfl <;> rfl

theorem laneOp_of_isFma (sc : StatusContext) (imm8 : BitVec 8) (x : LaneArgs p) :
    laneOp op sc imm8 x = .ofValue (fmaCore sc x.a x.b x.c (negatesProduct op) (negatesAddend op)) := by
  rcases hop with rfl | rfl | rfl | rfl <;> rfl

theorem termSigns_of_isFma (a b c : Lane p) :
    termSigns op a b c = (sign a ^^ sign b ^^ negatesProduct op, sign c ^^ negatesAddend op) := by
  have hbeq (x y : Bool) : (x == y) = (x ^^ y ^^ true) := by cases x <;> cases y <;> rfl
  rcases hop with rfl | rfl | rfl | rfl
  all_goals simp [termSigns, negatesProduct, negatesAddend, hbeq]

end Fma

/-- `fma_core` tests for a NaN before its invalid products and sums. -/
theorem fmaCore_of_isNaN (sc : StatusContext) {a b c : Lane p} (np nc : Bool)
    (h : isNaN a = true ∨ isNaN b = true ∨ isNaN c = true) :
    fmaCore sc a b c np nc = prop3 (daz sc a) (daz sc b) (daz sc c) := by
  have hnan : (isNaN a || isNaN b || isNaN c) = true := by simpa [or_assoc] using h
  simp [fmaCore, hnan]

/-- Settles O29: the four operations are `fma_core`, which answers `prop3`. -/
theorem threeOperandNaN : Obligations.ThreeOperandNaN := by
  intro p form f s n op hact hop h
  have hcore := (fmaCore_of_isNaN (ambient s) (negatesProduct op) (negatesAddend op) h).trans (prop3_daz _ h)
  exact laneAnswers_ambient hact (isMask_of_isFma hop) (overrideOf_of_isFma hop f)
    ((laneOp_of_isFma hop _ _ (s.laneArgs p n)).trans (congrArg LaneResult.ofValue hcore))

/-! ### Invalid operands that are not NaN -/

theorem addCore_invalid (sc : StatusContext) {a b : Lane p} (ha : isInf a = true) (hb : isInf b = true)
    (hs : sign a ≠ sign b) : addCore sc a b = invalid := by
  simp [addCore, ha, hb, hs]

theorem fmaCore_invalid (sc : StatusContext) {a b c : Lane p} (np nc : Bool)
    (hnan : (isNaN (daz sc a) || isNaN (daz sc b) || isNaN (daz sc c)) = false)
    (h : (isZero (daz sc a) = true ∧ isInf (daz sc b) = true) ∨
      (isInf (daz sc a) = true ∧ isZero (daz sc b) = true) ∨
      ((isInf (daz sc a) = true ∨ isInf (daz sc b) = true) ∧ isInf (daz sc c) = true ∧
        (sign (daz sc a) ^^ sign (daz sc b) ^^ np) ≠ (sign (daz sc c) ^^ nc))) :
    fmaCore sc a b c np nc = invalid := by
  unfold fmaCore
  generalize daz sc a = a, daz sc b = b, daz sc c = c at *
  rw [if_neg (by simp [hnan])]
  rcases h with ⟨ha, hb⟩ | ⟨ha, hb⟩ | ⟨hab, hc, hs⟩
  · rw [if_pos (by simp [ha, hb])]
  · rw [if_pos (by simp [ha, hb])]
  · have hsum : ((isInf a || isInf b) && isInf c && (sign a ^^ sign b ^^ np) != (sign c ^^ nc)) = true := by
      rw [bne_iff_ne.2 hs, hc, Bool.and_true, Bool.and_true, Bool.or_eq_true]
      exact hab
    rw [if_pos hsum, ite_self]

/-- What holds of the operands an operation reads. -/
theorem forall_mem_operandList {P : Lane p → Prop} {a b c : Lane p} :
    (∀ v ∈ operandList op a b c, P v) ↔ P a ∧ (op.readsB = true → P b) ∧ (op.readsC = true → P c) := by
  cases hb : op.readsB <;> cases hc : op.readsC <;> simp [operandList, hb, hc]

theorem add_of_not_isNaN (sc : StatusContext) {a b : Lane p} (ha : isNaN a = false) (hb : isNaN b = false) :
    add sc a b = addCore sc (daz sc a) (daz sc b) := by
  simp [add, ha, hb]

theorem sub_of_not_isNaN (sc : StatusContext) {a b : Lane p} (ha : isNaN a = false) (hb : isNaN b = false) :
    sub sc a b = addCore sc (daz sc a) (negLane (daz sc b)) := by
  simp [sub, ha, hb]

/-- An infinite operand of SCALEF by its bits. -/
theorem eq_infinity_iff (v : Lane p) (s : Bool) : v = infinity s ↔ isInf v = true ∧ sign v = s := by
  constructor
  · rintro rfl
    exact ⟨isInf_infinity s, sign_infinity s⟩
  · rintro ⟨h, rfl⟩
    exact (isInf_iff v).1 h

/-- Operands without a NaN in the table of invalid ones: the lane function answers the default NaN with `I` alone. -/
theorem laneOp_invalid (sc : StatusContext) (imm8 : BitVec 8) (x : LaneArgs p)
    (hnan : ∀ v ∈ operandList op (daz sc x.a) (daz sc x.b) (daz sc x.c), isNaN v = false)
    (h : InvalidOperands op (daz sc x.a) (daz sc x.b) (daz sc x.c)) :
    laneOp op sc imm8 x = .ofValue invalid := by
  obtain ⟨hna, hnb, hnc⟩ := forall_mem_operandList.1 hnan
  rw [isNaN_daz] at hna hnb hnc
  have hfma (hop : isFma op) : laneOp op sc imm8 x = .ofValue invalid := by
    rw [laneOp_of_isFma hop, fmaCore_invalid]
    · rcases hop with rfl | rfl | rfl | rfl <;> simp [hna, hnb rfl, hnc rfl]
    · have hsigns := termSigns_of_isFma hop (daz sc x.a) (daz sc x.b) (daz sc x.c)
      rcases hop with rfl | rfl | rfl | rfl <;> simpa only [InvalidOperands, hsigns] using h
  cases op with
  | fmadd | fmsub | fnmadd | fnmsub => exact hfma (by simp [isFma])
  | min | max | fixupimm | fpclass | getexp | getmant | range | reduce | rndscale | cmp => exact h.elim
  | add =>
    obtain ⟨ha, hb, hs⟩ := h
    exact congrArg LaneResult.ofValue ((add_of_not_isNaN sc hna (hnb rfl)).trans (addCore_invalid sc ha hb hs))
  | sub =>
    obtain ⟨ha, hb, hs⟩ := h
    have hs' : sign (daz sc x.a) ≠ sign (negLane (daz sc x.b)) := by simp [hs]
    rw [← isInf_negLane] at hb
    exact congrArg LaneResult.ofValue ((sub_of_not_isNaN sc hna (hnb rfl)).trans (addCore_invalid sc ha hb hs'))
  | mul =>
    have hinv : (isInf (daz sc x.a) && isZero (daz sc x.b) || isZero (daz sc x.a) && isInf (daz sc x.b)) = true := by
      simpa [InvalidOperands, or_comm] using h
    refine congrArg LaneResult.ofValue (?_ : mul sc x.a x.b = invalid)
    simp only [mul, isNaN_daz, hna, hnb rfl, hinv, Bool.or_self, Bool.false_eq_true, if_false, if_true]
  | div =>
    have hinv : (isInf (daz sc x.a) && isInf (daz sc x.b) || isZero (daz sc x.a) && isZero (daz sc x.b)) = true := by
      simpa [InvalidOperands, or_comm] using h
    refine congrArg LaneResult.ofValue (?_ : div sc x.a x.b = invalid)
    simp only [div, isNaN_daz, hna, hnb rfl, hinv, Bool.or_self, Bool.false_eq_true, if_false, if_true]
  | sqrt =>
    obtain ⟨hs, hz⟩ := h
    refine congrArg LaneResult.ofValue (?_ : sqrt sc x.a = invalid)
    simp only [sqrt, isNaN_daz, hna, hz, hs, Bool.false_eq_true, if_false, if_true]
  | scalef =>
    refine congrArg LaneResult.ofValue (?_ : scalef sc x.a x.b = invalid)
    simp only [InvalidOperands, eq_infinity_iff] at h
    rcases h with ⟨ha, hb, hs⟩ | ⟨ha, hb, hs⟩
    · simp only [scalef, isNaN_daz, hna, hnb rfl, ha, hb, hs, Bool.or_self, Bool.not_false, Bool.and_self,
        Bool.false_eq_true, if_false, if_true]
    · simp only [scalef, isNaN_daz, hna, hnb rfl, ha, hb, hs, Bool.or_self, Bool.not_true, Bool.and_self,
        Bool.and_false, Bool.false_eq_true, if_false, if_true]

/-- No operation with an override or a mask result has invalid operands that are not NaN. -/
theorem overrideOf_of_invalidOperands {a b c : Lane p} (h : InvalidOperands op a b c) :
    op.isMask = false ∧ overrideOf op f = none := by
  cases op with
  | min | max | fixupimm | fpclass | getexp | getmant | range | reduce | rndscale | cmp => exact h.elim
  | add | sub | mul | div | sqrt | fmadd | fmsub | fnmadd | fnmsub | scalef => exact ⟨rfl, rfl⟩

theorem laneAnswers_invalid (hact : ActiveLane p form f s n) (hnan : ∀ x ∈ operands p op s n, isNaN x = false)
    (h : InvalidOperands op (operandA p s n) (operandB p s n) (operandC p s n)) :
    LaneAnswers p (Instr.build f op p form) s n dnan flagI := by
  obtain ⟨hm, ho⟩ := overrideOf_of_invalidOperands (f := f) h
  exact laneAnswers_ambient hact hm ho (laneOp_invalid (ambient s) f.imm8 (s.laneArgs p n) hnan h)

/-- Settles O30: the default NaN of either format is the literal the rule gives. -/
theorem invalidGivesTheDefaultNaN : Obligations.InvalidGivesTheDefaultNaN := by
  intro form f s n op
  have hsingle : (dnan : Lane .single) = 0xFFC00000#32 := rfl
  have hdouble : (dnan : Lane .double) = 0xFFF8000000000000#64 := rfl
  exact ⟨fun hact hnan h => hsingle ▸ laneAnswers_invalid hact hnan h,
    fun hact hnan h => hdouble ▸ laneAnswers_invalid hact hnan h⟩

end Sys2Proof.Machine
end

section
/-! SUPPORT. Denormals as zeros: every lane function flushes the operands it reads, and flushing twice flushes once
(40_numerics.md R104). -/

namespace Sys2Proof.Machine

variable {p : Prec} {form : Form} {op : Op} {f : Fields} {s u : State}

/-- The lanes a command reads, the denormal operands among them replaced by the zeros of their signs. FIXUPIMM's
response operand is a bit pattern and no number (45_classify_fixup.md R225). -/
def LaneArgs.flushed (op : Op) (x : LaneArgs p) : LaneArgs p where
  a := flushDenormal true x.a
  b := if op = .fixupimm then x.b else flushDenormal true x.b
  c := flushDenormal true x.c
  dst := x.dst

theorem daz_flushDenormal {sc : StatusContext} (h : sc.daz = true) (v : Lane p) :
    daz sc (flushDenormal true v) = daz sc v := by
  rw [daz, h, flushDenormal_flushDenormal, daz, h]

theorem flushDenormal_of_isNaN (on : Bool) {v : Lane p} (h : isNaN v = true) : flushDenormal on v = v := by
  refine flushDenormal_of_not_isDenorm on (Bool.eq_false_of_not_eq_true fun hd => ?_)
  rw [isNaN_eq_false_of_expf_eq_zero (expf_eq_zero_of_isDenorm hd)] at h
  cases h

/-- Rounding to an integer reads its operand before `daz` for the NaN test alone, and a NaN is not flushed. -/
theorem roundToInt_flushDenormal {sc : StatusContext} (h : sc.daz = true) (a : Lane p) (m : Nat) :
    roundToInt sc (flushDenormal true a) m = roundToInt sc a m := by
  cases hn : isNaN a with
  | true => rw [flushDenormal_of_isNaN true hn]
  | false =>
    simp only [roundToInt, isNaN_flushDenormal, hn, daz_flushDenormal h]
    rfl

theorem reduce_flushDenormal {sc : StatusContext} (h : sc.daz = true) (a : Lane p) (imm8 : BitVec 8) :
    reduce sc (flushDenormal true a) imm8 = reduce sc a imm8 := by
  have hsub (b : Lane p) : sub sc (flushDenormal true a) b = sub sc a b := by simp only [sub, daz_flushDenormal h]
  simp only [reduce, roundToInt_flushDenormal h, isInf_flushDenormal, hsub]

/-- With DAZ set a lane function cannot tell a denormal operand from the zero of its sign. -/
theorem laneOp_flushed {sc : StatusContext} (h : sc.daz = true) (imm8 : BitVec 8) (x : LaneArgs p) :
    laneOp op sc imm8 (x.flushed op) = laneOp op sc imm8 x := by
  have hdaz := daz_flushDenormal (p := p) h
  cases op with
  | add => simp only [laneOp, addLane, add, LaneArgs.flushed, reduceCtorEq, if_false, hdaz]
  | sub => simp only [laneOp, subLane, sub, LaneArgs.flushed, reduceCtorEq, if_false, hdaz]
  | mul => simp only [laneOp, mulLane, mul, LaneArgs.flushed, reduceCtorEq, if_false, hdaz]
  | div => simp only [laneOp, divLane, div, LaneArgs.flushed, reduceCtorEq, if_false, hdaz]
  | min => simp only [laneOp, minLane, min, LaneArgs.flushed, reduceCtorEq, if_false, hdaz]
  | max => simp only [laneOp, maxLane, max, LaneArgs.flushed, reduceCtorEq, if_false, hdaz]
  | sqrt => simp only [laneOp, sqrtLane, sqrt, LaneArgs.flushed, hdaz]
  | fmadd => simp only [laneOp, fmaddLane, fmaCore, LaneArgs.flushed, reduceCtorEq, if_false, hdaz]
  | fmsub => simp only [laneOp, fmsubLane, fmaCore, LaneArgs.flushed, reduceCtorEq, if_false, hdaz]
  | fnmadd => simp only [laneOp, fnmaddLane, fmaCore, LaneArgs.flushed, reduceCtorEq, if_false, hdaz]
  | fnmsub => simp only [laneOp, fnmsubLane, fmaCore, LaneArgs.flushed, reduceCtorEq, if_false, hdaz]
  | fixupimm => simp only [laneOp, fixupimmLane, fixupimm, LaneArgs.flushed, if_true, hdaz]
  | fpclass => simp only [laneOp, fpclassLane, fpclass, classify, LaneArgs.flushed, h, flushDenormal_flushDenormal]
  | getexp => simp only [laneOp, getexpLane, getexp, LaneArgs.flushed, hdaz]
  | getmant => simp only [laneOp, getmantLane, getmant, LaneArgs.flushed, hdaz]
  | range => simp only [laneOp, rangeLane, range, LaneArgs.flushed, reduceCtorEq, if_false, hdaz]
  | reduce => simp only [laneOp, reduceLane, LaneArgs.flushed, reduce_flushDenormal h]
  | rndscale => simp only [laneOp, rndscaleLane, rndscale, LaneArgs.flushed, roundToInt_flushDenormal h]
  | scalef => simp only [laneOp, scalefLane, scalef, LaneArgs.flushed, reduceCtorEq, if_false, hdaz]
  | cmp => simp only [laneOp, cmpLane, cmp, LaneArgs.flushed, reduceCtorEq, if_false, hdaz]

/-- Two commands of the same fields, with the same context and masks, whose lanes in range answer the same, give one
response. -/
theorem sameAnswer_of_laneResult_eq (hctrl : s.ctrl = u.ctrl) (hk : s.k = u.k) (hdst : s.dprior = u.dprior)
    (hlane : ∀ n < form.loopLanes f.vl p, laneResult p op f s n = laneResult p op f u n) :
    SameAnswer (Instr.build f op p form) (Instr.build f op p form) s u := by
  have hend : endContext p form op f s = endContext p form op f u := by
    rw [endContext, endContext, commandContext_congr op f hctrl]
    exact accumulate_congr _ fun n hn => by rw [hk, hlane n hn]
  obtain ⟨t, ht, hs⟩ := exec_build_answer p form op f s
  obtain ⟨v, hv, hu⟩ := exec_build_answer p form op f u
  have hfault : t.fault = v.fault := by rw [hs.fault_eq, hu.fault_eq, hend]
  refine ⟨t, v, ht, hv, ?_, ?_, hfault, fun hno => ?_⟩
  · rw [hs.ctrlOut_eq, hu.ctrlOut_eq, hend, hctrl]
  · rw [hs.finalFlags_eq, hu.finalFlags_eq, hend]
  · rw [build_op]
    cases hm : op.isMask with
    | false =>
      change t.result = v.result
      rw [hs.result_eq hm hno, hu.result_eq hm (hfault ▸ hno)]
      exact packLanes_congr fun n hn => by rw [resultLane, resultLane, hk, hdst, hlane n hn]
    | true =>
      change t.kresult = v.kresult
      rw [hs.kresult_eq hm hno, hu.kresult_eq hm (hfault ▸ hno)]
      exact packBits_congr fun n hn => by rw [resultBit, resultBit, hk, hlane n hn]

theorem commandContext_daz (op : Op) (f : Fields) (s : State) : (commandContext op f s).daz = s.ctrl.getLsbD 6 := by
  unfold commandContext
  split <;> rfl

/-- Settles O22: the lanes of `u` are those of `s` flushed, and no lane function can tell. -/
theorem denormalsAreZero : Obligations.DenormalsAreZero := by
  intro op p form f s u hdaz hctrl hk hdst hlanes
  refine sameAnswer_of_laneResult_eq hctrl.symm hk.symm hdst.symm fun n hn => ?_
  obtain ⟨ha, hb, hc⟩ := hlanes n hn
  have hargs : u.laneArgs p n = (s.laneArgs p n).flushed op := by
    simp only [State.laneArgs, LaneArgs.flushed, ha, hb, hc, hdst]
  rw [laneResult, laneResult, hargs, commandContext_congr op f hctrl]
  exact (laneOp_flushed ((commandContext_daz op f s).trans hdaz) f.imm8 _).symm

end Sys2Proof.Machine
end

section
/-! SUPPORT. The exact magnitudes as real numbers: what `floorDiv`, `compareAt`, `floorLog2` and `rnd` compute of them
(40_numerics.md R111, R112). Rounding then depends on the real number alone, and not on the form it is held in. -/

namespace Sys2Proof.Machine

/-- The real number an exact magnitude stands for. -/
noncomputable def Exact.toReal : Exact → ℝ
  | .quot n d z => (n : ℝ) / d * 2 ^ z
  | .root n z => √((n : ℝ) * 2 ^ z)

/-- The denominator of an exact magnitude is not 0. -/
def Exact.Valid : Exact → Prop
  | .quot _ d _ => 0 < d
  | .root _ _ => True

theorem Exact.toReal_nonneg (m : Exact) : 0 ≤ m.toReal := by
  cases m with
  | quot n d z => unfold Exact.toReal; positivity
  | root n z => exact Real.sqrt_nonneg _

/-! ### Comparing and flooring scaled quotients -/

theorem compare_eq_compare {α β : Type} [LinearOrder α] [LinearOrder β] {a b : α} {c d : β} (hlt : a < b ↔ c < d)
    (hgt : b < a ↔ d < c) : compare a b = compare c d := by
  rcases lt_trichotomy a b with h | h | h
  · rw [compare_lt_iff_lt.2 h, compare_lt_iff_lt.2 (hlt.1 h)]
  · have hcd : c = d := le_antisymm (not_lt.1 fun hc => (hgt.2 hc).ne h.symm) (not_lt.1 fun hc => (hlt.2 hc).ne h)
    rw [compare_eq_iff_eq.2 h, compare_eq_iff_eq.2 hcd]
  · rw [compare_gt_iff_gt.2 h, compare_gt_iff_gt.2 (hgt.1 h)]

theorem floorScaled_eq_natFloor (n d : Nat) (z : Int) : floorScaled n d z = ⌊(n : ℝ) / d * 2 ^ z⌋₊ := by
  have hq : (floorScaled n d z : ℤ) = ⌊(((n : ℚ) / d * 2 ^ z : ℚ) : ℝ)⌋ := by
    rw [Rat.floor_cast, floorScaled_eq_floor]
  push_cast at hq
  rw [← Int.toNat_natCast (floorScaled n d z), hq, Int.floor_toNat]

/-- A fraction compared with a whole number by cross-multiplication. -/
theorem compareScaled_eq (n d : Nat) (z : Int) (k : Nat) (hd : 0 < d) :
    compareScaled n d z k = compare ((n : ℝ) / d * 2 ^ z) (k : ℝ) := by
  have hd' : (0 : ℝ) < d := by exact_mod_cast hd
  unfold compareScaled
  split
  next h =>
    obtain ⟨j, rfl⟩ := Int.eq_ofNat_of_zero_le h
    have hx : (n : ℝ) / d * 2 ^ (j : ℤ) = ((n * 2 ^ j : ℕ) : ℝ) / d := by
      push_cast
      rw [zpow_natCast]
      ring
    rw [Int.toNat_natCast, hx]
    refine compare_eq_compare ?_ ?_
    · rw [div_lt_iff₀ hd']
      exact_mod_cast Iff.rfl
    · rw [lt_div_iff₀ hd']
      exact_mod_cast Iff.rfl
  next h =>
    obtain ⟨j, rfl⟩ : ∃ j : ℕ, z = -(j : ℤ) := ⟨(-z).toNat, by omega⟩
    have hx : (n : ℝ) / d * 2 ^ (-(j : ℤ)) = (n : ℝ) / ((d * 2 ^ j : ℕ) : ℝ) := by
      push_cast
      rw [zpow_neg, zpow_natCast]
      field_simp
    have hpos : (0 : ℝ) < ((d * 2 ^ j : ℕ) : ℝ) := by positivity
    rw [neg_neg, Int.toNat_natCast, hx]
    refine compare_eq_compare ?_ ?_
    · rw [div_lt_iff₀ hpos]
      exact_mod_cast Iff.rfl
    · rw [lt_div_iff₀ hpos]
      exact_mod_cast Iff.rfl

/-! ### The real number divided by a power of two -/

theorem toReal_quot_div (n d : Nat) (e z : Int) : (Exact.quot n d e).toReal / 2 ^ z = (n : ℝ) / d * 2 ^ (e - z) := by
  rw [Exact.toReal, zpow_sub₀ two_ne_zero, mul_div_assoc]

theorem toReal_root_div (n : Nat) (e z : Int) :
    (Exact.root n e).toReal / 2 ^ z = √((n : ℝ) / (1 : ℕ) * 2 ^ (e - 2 * z)) := by
  have hz : (2 : ℝ) ^ z = √(2 ^ (2 * z)) := by
    rw [two_mul, zpow_add₀ two_ne_zero, Real.sqrt_mul_self (by positivity)]
  rw [Exact.toReal, hz, ← Real.sqrt_div' _ (by positivity), zpow_sub₀ two_ne_zero, Nat.cast_one, div_one, mul_div_assoc]

/-- The integer square root of the whole part is the whole part of the square root. -/
theorem isqrt_natFloor {y : ℝ} (hy : 0 ≤ y) : isqrt ⌊y⌋₊ = ⌊√y⌋₊ := by
  obtain ⟨hlo, hhi⟩ := isqrt_spec ⌊y⌋₊
  symm
  rw [Nat.floor_eq_iff (Real.sqrt_nonneg y)]
  constructor
  · apply Real.le_sqrt_of_sq_le
    rw [sq, ← Nat.cast_mul]
    exact (Nat.le_floor_iff hy).1 hlo
  · rw [Real.sqrt_lt' (by positivity), sq]
    exact_mod_cast (Nat.floor_lt hy).1 hhi

theorem floorDiv_eq (m : Exact) (z : Int) : m.floorDiv z = ⌊m.toReal / 2 ^ z⌋₊ := by
  cases m with
  | quot n d e => rw [Exact.floorDiv, floorScaled_eq_natFloor, toReal_quot_div]
  | root n e => rw [Exact.floorDiv, floorScaled_eq_natFloor, isqrt_natFloor (by positivity), toReal_root_div]

theorem compareAt_eq {m : Exact} (hm : m.Valid) (k : Nat) (z : Int) :
    m.compareAt k z = compare (m.toReal / 2 ^ z) (k : ℝ) := by
  cases m with
  | quot n d e => rw [Exact.compareAt, compareScaled_eq _ _ _ _ hm, toReal_quot_div]
  | root n e =>
    rw [Exact.compareAt, compareScaled_eq _ _ _ _ Nat.one_pos, toReal_root_div, Nat.cast_mul, ← sq]
    refine compare_eq_compare ?_ ?_
    · rcases Nat.eq_zero_or_pos k with rfl | hk
      · simp only [CharP.cast_eq_zero, ne_eq, OfNat.ofNat_ne_zero, not_false_eq_true, zero_pow]
        exact iff_of_false (not_lt.2 (by positivity)) (not_lt.2 (Real.sqrt_nonneg _))
      · rw [Real.sqrt_lt' (by exact_mod_cast hk)]
    · rw [Real.lt_sqrt (Nat.cast_nonneg k)]

/-! ### The exponent of a positive magnitude (40_numerics.md R112) -/

/-- A positive whole number lies between two powers of two. -/
theorem log2_bounds {n : Nat} (hn : 0 < n) : (2 : ℝ) ^ (n.log2 : ℤ) ≤ n ∧ (n : ℝ) < 2 ^ ((n.log2 : ℤ) + 1) := by
  refine ⟨?_, ?_⟩
  · rw [zpow_natCast]
    exact_mod_cast Nat.log2_self_le hn.ne'
  · have hlt : (n : ℝ) < (2 : ℝ) ^ (n.log2 + 1) := by exact_mod_cast Nat.lt_log2_self
    exact_mod_cast hlt

theorem pos_of_toReal_quot_pos {n d : Nat} {e : Int} (h : 0 < (Exact.quot n d e).toReal) : 0 < n := by
  refine Nat.pos_of_ne_zero ?_
  rintro rfl
  simp [Exact.toReal] at h

theorem pos_of_toReal_root_pos {n : Nat} {e : Int} (h : 0 < (Exact.root n e).toReal) : 0 < n := by
  refine Nat.pos_of_ne_zero ?_
  rintro rfl
  simp [Exact.toReal] at h

/-- The exponents of numerator and denominator leave two candidates for that of the quotient. -/
theorem div_bounds {n d : Nat} (hn : 0 < n) (hd : 0 < d) :
    (2 : ℝ) ^ ((n.log2 : ℤ) - d.log2 - 1) < (n : ℝ) / d ∧ (n : ℝ) / d < 2 ^ ((n.log2 : ℤ) - d.log2 + 1) := by
  have hd' : (0 : ℝ) < d := by exact_mod_cast hd
  obtain ⟨hn1, hn2⟩ := log2_bounds hn
  obtain ⟨hd1, hd2⟩ := log2_bounds hd
  constructor
  · rw [lt_div_iff₀ hd']
    calc (2 : ℝ) ^ ((n.log2 : ℤ) - d.log2 - 1) * d
        < 2 ^ ((n.log2 : ℤ) - d.log2 - 1) * 2 ^ ((d.log2 : ℤ) + 1) := by gcongr
      _ = 2 ^ (n.log2 : ℤ) := by rw [← zpow_add₀ two_ne_zero]; congr 1; omega
      _ ≤ n := hn1
  · rw [div_lt_iff₀ hd']
    calc (n : ℝ) < 2 ^ ((n.log2 : ℤ) + 1) := hn2
      _ = 2 ^ ((n.log2 : ℤ) - d.log2 + 1) * 2 ^ (d.log2 : ℤ) := by rw [← zpow_add₀ two_ne_zero]; congr 1; omega
      _ ≤ 2 ^ ((n.log2 : ℤ) - d.log2 + 1) * d := by gcongr

theorem floorLog2_quot_bounds {n d : Nat} (e : Int) (hn : 0 < n) (hd : 0 < d) :
    (2 : ℝ) ^ (Exact.quot n d e).floorLog2 ≤ (Exact.quot n d e).toReal ∧
      (Exact.quot n d e).toReal < 2 ^ ((Exact.quot n d e).floorLog2 + 1) := by
  obtain ⟨hlo, hhi⟩ := div_bounds hn hd
  have hcmp (g : ℤ) : compareScaled n d (-g) 1 = .lt ↔ (n : ℝ) / d < 2 ^ g := by
    rw [compareScaled_eq _ _ _ _ hd, compare_lt_iff_lt, zpow_neg, ← div_eq_mul_inv, div_lt_iff₀ (by positivity),
      Nat.cast_one, one_mul]
  have hscale (a : ℤ) : (2 : ℝ) ^ (e + a) = 2 ^ a * 2 ^ e := by rw [zpow_add₀ two_ne_zero, mul_comm]
  have hpe : (0 : ℝ) < 2 ^ e := by positivity
  simp only [Exact.floorLog2, Exact.toReal]
  split
  next h =>
    rw [add_assoc, sub_add_cancel, hscale, hscale]
    exact ⟨mul_le_mul_of_nonneg_right hlo.le hpe.le, mul_lt_mul_of_pos_right ((hcmp _).1 h) hpe⟩
  next h =>
    rw [add_assoc, hscale, hscale]
    exact ⟨mul_le_mul_of_nonneg_right (not_lt.1 (mt (hcmp _).2 h)) hpe.le, mul_lt_mul_of_pos_right hhi hpe⟩

theorem floorLog2_root_bounds {n : Nat} (e : Int) (hn : 0 < n) :
    (2 : ℝ) ^ (Exact.root n e).floorLog2 ≤ (Exact.root n e).toReal ∧
      (Exact.root n e).toReal < 2 ^ ((Exact.root n e).floorLog2 + 1) := by
  obtain ⟨hlo, hhi⟩ := log2_bounds hn
  have hpe : (0 : ℝ) < 2 ^ e := by positivity
  have hsq (a : ℤ) : ((2 : ℝ) ^ a) ^ 2 = 2 ^ (2 * a) := by rw [sq, ← zpow_add₀ two_ne_zero, two_mul]
  simp only [Exact.floorLog2, Exact.toReal]
  set h : ℤ := ((n.log2 : ℤ) + e) / 2 with hh
  constructor
  · apply Real.le_sqrt_of_sq_le
    calc ((2 : ℝ) ^ h) ^ 2 = 2 ^ (2 * h) := hsq h
      _ ≤ 2 ^ ((n.log2 : ℤ) + e) := zpow_le_zpow_right₀ one_le_two (by omega)
      _ = 2 ^ (n.log2 : ℤ) * 2 ^ e := zpow_add₀ two_ne_zero _ _
      _ ≤ n * 2 ^ e := by gcongr
  · rw [Real.sqrt_lt' (by positivity)]
    calc (n : ℝ) * 2 ^ e < 2 ^ ((n.log2 : ℤ) + 1) * 2 ^ e := by gcongr
      _ = 2 ^ ((n.log2 : ℤ) + 1 + e) := (zpow_add₀ two_ne_zero _ _).symm
      _ ≤ 2 ^ (2 * (h + 1)) := zpow_le_zpow_right₀ one_le_two (by omega)
      _ = ((2 : ℝ) ^ (h + 1)) ^ 2 := (hsq (h + 1)).symm

/-- `floor(log2(m))` is the exponent of the power of two at or below a positive magnitude. -/
theorem floorLog2_bounds {m : Exact} (hm : m.Valid) (hpos : 0 < m.toReal) :
    (2 : ℝ) ^ m.floorLog2 ≤ m.toReal ∧ m.toReal < 2 ^ (m.floorLog2 + 1) := by
  cases m with
  | quot n d e => exact floorLog2_quot_bounds e (pos_of_toReal_quot_pos hpos) hm
  | root n e => exact floorLog2_root_bounds e (pos_of_toReal_root_pos hpos)

/-! ### Rounding a magnitude to a whole number (40_numerics.md R111) -/

/-- The three ways a mode rounds a magnitude, its sign given. -/
inductive Direction where
  | down
  | up
  | nearest

/-- A mode toward an infinity rounds magnitudes up on its own side of zero and down on the other. -/
def RoundingMode.direction : RoundingMode → Bool → Direction
  | .rn, _ => .nearest
  | .rz, _ => .down
  | .ru, s => if s then .down else .up
  | .rd, s => if s then .up else .down

/-- A magnitude rounded to a whole number. -/
noncomputable def roundNat (d : Direction) (x : ℝ) : ℕ :=
  match d with
  | .down => ⌊x⌋₊
  | .up => ⌈x⌉₊
  | .nearest =>
    if x < ⌊x⌋₊ + 1 / 2 then ⌊x⌋₊ else if ⌊x⌋₊ + 1 / 2 < x then ⌊x⌋₊ + 1
    else if ⌊x⌋₊ % 2 = 0 then ⌊x⌋₊ else ⌊x⌋₊ + 1

section RoundNat

variable (d : Direction) {x : ℝ}

@[simp] theorem roundNat_natCast (k : ℕ) : roundNat d (k : ℝ) = k := by
  cases d with
  | down => exact Nat.floor_natCast k
  | up => exact Nat.ceil_natCast k
  | nearest => simp [roundNat]

/-- Off the whole numbers the next one up is one above the whole part. -/
theorem natCeil_eq_of_ne (hx : 0 ≤ x) (hne : x ≠ ⌊x⌋₊) : ⌈x⌉₊ = ⌊x⌋₊ + 1 := by
  rw [Nat.ceil_eq_iff (Nat.succ_ne_zero _), Nat.succ_sub_one, Nat.cast_succ]
  exact ⟨lt_of_le_of_ne (Nat.floor_le hx) (Ne.symm hne), (Nat.lt_floor_add_one x).le⟩

/-- `rnd` rounds the real number, whatever form it is held in. -/
theorem rnd_eq (rm : RoundingMode) (s : Bool) {m : Exact} (hm : m.Valid) (z : Int) :
    rnd rm s m z = roundNat (rm.direction s) (m.toReal / 2 ^ z) := by
  have hx : 0 ≤ m.toReal / 2 ^ z := div_nonneg m.toReal_nonneg (by positivity)
  have hhalf : m.toReal / 2 ^ (z - 1) = 2 * (m.toReal / 2 ^ z) := by
    rw [zpow_sub_one₀ two_ne_zero, mul_comm ((2 : ℝ) ^ z), ← div_div, div_inv_eq_mul]
    ring
  unfold rnd
  simp only [compareAt_eq hm, floorDiv_eq, hhalf]
  generalize m.toReal / 2 ^ z = x at hx
  split
  next h =>
    rw [compare_eq_iff_eq] at h
    conv_rhs => rw [h, roundNat_natCast]
  next h =>
    rw [compare_eq_iff_eq] at h
    have hceil := natCeil_eq_of_ne hx h
    cases rm with
    | rz => rfl
    | ru => cases s <;> simp [RoundingMode.direction, roundNat, hceil]
    | rd => cases s <;> simp [RoundingMode.direction, roundNat, hceil]
    | rn =>
      have hlt : 2 * x < ((2 * ⌊x⌋₊ + 1 : ℕ) : ℝ) ↔ x < ⌊x⌋₊ + 1 / 2 := by
        push_cast
        constructor <;> intro <;> linarith
      have hgt : ((2 * ⌊x⌋₊ + 1 : ℕ) : ℝ) < 2 * x ↔ ⌊x⌋₊ + 1 / 2 < x := by
        push_cast
        constructor <;> intro <;> linarith
      simp only [RoundingMode.direction, roundNat]
      split
      next hc => rw [if_pos (hlt.1 (compare_lt_iff_lt.1 hc))]
      next hc =>
        have hc' := hgt.1 (compare_gt_iff_gt.1 hc)
        rw [if_neg hc'.not_gt, if_pos hc']
      next hc =>
        have hc' := compare_eq_iff_eq.1 hc
        rw [if_neg (mt hlt.2 hc'.not_lt), if_neg (mt hgt.2 hc'.not_gt)]

/-- A rounded magnitude is the whole part or, off the whole numbers, one more. -/
theorem roundNat_cases (hx : 0 ≤ x) :
    roundNat d x = ⌊x⌋₊ ∨ (roundNat d x = ⌊x⌋₊ + 1 ∧ (⌊x⌋₊ : ℝ) < x) := by
  by_cases hne : x = ⌊x⌋₊
  · left
    conv_lhs => rw [hne, roundNat_natCast]
  · have hlt : (⌊x⌋₊ : ℝ) < x := lt_of_le_of_ne (Nat.floor_le hx) (Ne.symm hne)
    cases d with
    | down => exact .inl rfl
    | up => exact .inr ⟨natCeil_eq_of_ne hx hne, hlt⟩
    | nearest =>
      simp only [roundNat]
      split_ifs
      · exact .inl rfl
      · exact .inr ⟨rfl, hlt⟩
      · exact .inl rfl
      · exact .inr ⟨rfl, hlt⟩

/-- Rounding to nearest stays within half, and at half it answers an even number. -/
theorem roundNat_nearest (hx : 0 ≤ x) :
    |x - roundNat .nearest x| ≤ 1 / 2 ∧ (|x - roundNat .nearest x| = 1 / 2 → Even (roundNat .nearest x)) := by
  have hlo := Nat.floor_le hx
  have hhi := Nat.lt_floor_add_one x
  simp only [roundNat, Nat.even_iff]
  split_ifs with h1 h2 h3
  · rw [abs_of_nonneg (by linarith)]
    exact ⟨by linarith, fun h => by linarith⟩
  · push_cast
    rw [abs_of_nonpos (by linarith)]
    exact ⟨by linarith, fun h => by linarith⟩
  · rw [abs_of_nonneg (by linarith)]
    exact ⟨by linarith, fun _ => h3⟩
  · push_cast
    rw [abs_of_nonpos (by linarith)]
    exact ⟨by linarith, fun _ => by omega⟩

end RoundNat

end Sys2Proof.Machine
end

section
/-! SUPPORT. The values of the format: what `pack_exact` answers for a representable magnitude, and the gaps between the
finite lanes, which make a magnitude rounded to the right grid the correctly rounded one (40_numerics.md R105, R111,
R113). -/

namespace Sys2Proof.Machine

variable {p : Prec}

/-! ### Values of lanes as real numbers -/

/-- A real number with its sign flipped or not. -/
def toward (s : Bool) (x : ℝ) : ℝ := if s then -x else x

@[simp] theorem toward_true (x : ℝ) : toward true x = -x := rfl
@[simp] theorem toward_false (x : ℝ) : toward false x = x := rfl

@[simp] theorem toward_toward (s : Bool) (x : ℝ) : toward s (toward s x) = x := by cases s <;> simp

theorem toward_sub (s : Bool) (x y : ℝ) : toward s x - toward s y = toward s (x - y) := by
  cases s
  · rfl
  · simp only [toward_true]; ring

@[simp] theorem abs_toward (s : Bool) (x : ℝ) : |toward s x| = |x| := by cases s <;> simp

/-- A real number is its magnitude on the side of its sign. -/
theorem toward_abs (x : ℝ) : toward (decide (x < 0)) |x| = x := by
  by_cases h : x < 0
  · simp [h, abs_of_neg]
  · simp [h, abs_of_nonneg (not_lt.1 h)]

/-- The magnitude of a lane as a real number (40_numerics.md R105). -/
noncomputable def magR (v : Lane p) : ℝ := (magUnits v : ℝ) * 2 ^ p.unitExp

theorem magR_nonneg (v : Lane p) : 0 ≤ magR v := by unfold magR; positivity

theorem valQ_cast (v : Lane p) : ((valQ v : ℚ) : ℝ) = toward (sign v) (magR v) := by
  rw [valQ, magQ_eq_magUnits, magR]
  cases sign v <;> simp

theorem abs_valQ_cast (v : Lane p) : |((valQ v : ℚ) : ℝ)| = magR v := by
  rw [valQ_cast, abs_toward, abs_of_nonneg (magR_nonneg v)]

theorem sigBits_eq (p : Prec) : p.sigBits = p.fb + 1 := rfl

theorem fb_pos (p : Prec) : 0 < p.fb := by cases p <;> decide

theorem magUnits_of_expf_eq_zero {v : Lane p} (h : expf v = 0) : magUnits v = frac v := if_pos h

theorem magUnits_of_expf_ne_zero {v : Lane p} (h : expf v ≠ 0) :
    magUnits v = (2 ^ p.fb + frac v) * 2 ^ (expf v - 1) := if_neg h

@[simp] theorem magUnits_signedZero (s : Bool) : magUnits (signedZero s : Lane p) = 0 := by
  rw [magUnits_of_expf_eq_zero (expf_signedZero s), frac_signedZero]

/-- A finite lane has at most `p` significant bits, the lowest no lower than the smallest denormal. -/
theorem magUnits_eq_mul_two_pow (v : Lane p) : ∃ j i : ℕ, j < 2 ^ p.sigBits ∧ magUnits v = j * 2 ^ i := by
  have hf := frac_lt v
  have hp : 2 ^ p.sigBits = 2 ^ p.fb + 2 ^ p.fb := by rw [sigBits_eq, pow_succ]; omega
  by_cases h : expf v = 0
  · exact ⟨frac v, 0, by omega, by rw [magUnits_of_expf_eq_zero h, pow_zero, mul_one]⟩
  · exact ⟨2 ^ p.fb + frac v, expf v - 1, by omega, magUnits_of_expf_ne_zero h⟩

theorem magR_eq_mul_zpow (v : Lane p) :
    ∃ (j : ℕ) (w : ℤ), j < 2 ^ p.sigBits ∧ p.unitExp ≤ w ∧ magR v = j * 2 ^ w := by
  obtain ⟨j, i, hj, hv⟩ := magUnits_eq_mul_two_pow v
  refine ⟨j, p.unitExp + i, hj, by omega, ?_⟩
  rw [magR, hv, zpow_add₀ two_ne_zero, zpow_natCast]
  push_cast
  ring

/-! ### The bits of a magnitude -/

/-- The value of packed fields that are not those of an infinity or a NaN. -/
theorem magUnits_pack (s : Bool) {e f : ℕ} (he : e < p.eall) (hf : f < 2 ^ p.fb) :
    magUnits (pack s e f : Lane p) = if e = 0 then f else (2 ^ p.fb + f) * 2 ^ (e - 1) := by
  have he' : e < 2 ^ p.eb := he.trans (eall_lt p)
  rw [magUnits, expf_pack s he' hf, frac_pack s he' hf]

theorem isFinite_pack (s : Bool) {e f : ℕ} (he : e < p.eall) (hf : f < 2 ^ p.fb) :
    isFinite (pack s e f : Lane p) = true := by
  rw [isFinite, expf_pack s (he.trans (eall_lt p)) hf, bne_iff_ne]
  exact he.ne

/-- `k * 2^z` where it is the whole number `n`. -/
theorem shiftBy_eq {k n : ℕ} {z : ℤ} (h : (n : ℝ) = k * 2 ^ z) : shiftBy k z = n := by
  unfold shiftBy
  split
  next hz =>
    obtain ⟨j, rfl⟩ := Int.eq_ofNat_of_zero_le hz
    rw [zpow_natCast] at h
    rw [Int.toNat_natCast]
    exact_mod_cast h.symm
  next hz =>
    obtain ⟨j, rfl⟩ : ∃ j : ℕ, z = -(j : ℤ) := ⟨(-z).toNat, by omega⟩
    rw [zpow_neg, zpow_natCast, ← div_eq_mul_inv, eq_div_iff (by positivity)] at h
    have hk : k = n * 2 ^ j := by exact_mod_cast h.symm
    rw [neg_neg, Int.toNat_natCast, hk, Nat.mul_div_cancel _ (by positivity)]

/-- The exponent of `k * 2^z`. -/
theorem log2At_bounds {k : ℕ} (z : ℤ) (hk : 0 < k) :
    (2 : ℝ) ^ log2At k z ≤ k * 2 ^ z ∧ (k : ℝ) * 2 ^ z < 2 ^ (log2At k z + 1) := by
  obtain ⟨hlo, hhi⟩ := log2_bounds hk
  have hz : (0 : ℝ) < 2 ^ z := by positivity
  unfold log2At
  constructor
  · rw [zpow_add₀ two_ne_zero]
    exact mul_le_mul_of_nonneg_right hlo hz.le
  · rw [add_right_comm, zpow_add₀ two_ne_zero _ z]
    exact mul_lt_mul_of_pos_right hhi hz

theorem le_log2At_iff {k : ℕ} {z e : ℤ} (hk : 0 < k) : e ≤ log2At k z ↔ (2 : ℝ) ^ e ≤ k * 2 ^ z := by
  obtain ⟨hlo, hhi⟩ := log2At_bounds z hk
  constructor
  · intro h
    exact (zpow_le_zpow_right₀ one_le_two h).trans hlo
  · intro h
    have := (zpow_lt_zpow_iff_right₀ (one_lt_two (α := ℝ))).1 (h.trans_lt hhi)
    omega

/-- A magnitude that is a whole multiple of `2^w` is one of every lower power of two, and `shiftBy` finds the multiple. -/
theorem shiftBy_mul_zpow {k j : ℕ} {z w a : ℤ} (heq : (k : ℝ) * 2 ^ z = j * 2 ^ w) (ha : a ≤ w) :
    (shiftBy k (z - a) : ℝ) * 2 ^ a = k * 2 ^ z := by
  obtain ⟨i, rfl⟩ : ∃ i : ℕ, w = a + i := ⟨(w - a).toNat, by omega⟩
  have hn : ((j * 2 ^ i : ℕ) : ℝ) = k * 2 ^ (z - a) := by
    rw [zpow_sub₀ two_ne_zero, ← mul_div_assoc, heq, zpow_add₀ two_ne_zero, zpow_natCast, eq_div_iff (by positivity)]
    push_cast
    ring
  rw [shiftBy_eq hn, hn, zpow_sub₀ two_ne_zero]
  field_simp

/-- `m * 2^a` lies below `n * 2^a` as `m` does below `n`. -/
theorem natCast_mul_zpow_le {m n : ℕ} {a : ℤ} : (m : ℝ) * 2 ^ a ≤ n * 2 ^ a ↔ m ≤ n := by
  rw [mul_le_mul_iff_left₀ (by positivity)]
  exact_mod_cast Iff.rfl

theorem two_pow_natCast_mul (n : ℕ) (a : ℤ) : ((2 ^ n : ℕ) : ℝ) * 2 ^ a = 2 ^ (n + a) := by
  rw [zpow_add₀ two_ne_zero, zpow_natCast]
  push_cast
  rfl

theorem bias_pos (p : Prec) : 0 < p.bias := by cases p <;> decide

theorem eall_eq (p : Prec) : p.eall = 2 * p.bias + 1 := by cases p <;> rfl

/-- A lane of exponent field 0. -/
theorem magR_pack_zero (s : Bool) {f : ℕ} (hf : f < 2 ^ p.fb) : magR (pack s 0 f : Lane p) = f * 2 ^ p.unitExp := by
  rw [magR, magUnits_pack s (eall_pos p) hf, if_pos rfl]

/-- A normal lane of exponent `e` and significand `n`. -/
theorem magR_pack_normal (s : Bool) {e : ℤ} {n : ℕ} (hmin : p.emin ≤ e) (hmax : e ≤ p.emax) (hlo : 2 ^ p.fb ≤ n)
    (hhi : n < 2 ^ (p.fb + 1)) :
    magR (pack s (e + p.bias).toNat (n - 2 ^ p.fb) : Lane p) = n * 2 ^ (e - p.fb) := by
  have hb := eall_eq p
  simp only [Prec.emin, Prec.emax] at hmin hmax
  have hf : n - 2 ^ p.fb < 2 ^ p.fb := by rw [pow_succ] at hhi; omega
  rw [magR, magUnits_pack s (by omega) hf, if_neg (by omega), Nat.add_sub_cancel' hlo, Nat.cast_mul, mul_assoc,
    two_pow_natCast_mul]
  congr 2
  simp only [Prec.unitExp, Prec.emin]
  omega

/-- `pack_exact` of a magnitude that some finite lane has: that lane, with the sign asked for (40_numerics.md R113). -/
theorem packExact_spec (s : Bool) {k : ℕ} {z : ℤ} (hk : 0 < k) (hmax : log2At k z ≤ p.emax) {j : ℕ} {w : ℤ}
    (hj : j < 2 ^ p.sigBits) (hw : p.unitExp ≤ w) (heq : (k : ℝ) * 2 ^ z = j * 2 ^ w) :
    sign (packExact s k z : Lane p) = s ∧ isFinite (packExact s k z : Lane p) = true ∧
      magR (packExact s k z : Lane p) = k * 2 ^ z := by
  obtain ⟨hlo, hhi⟩ := log2At_bounds z hk
  unfold packExact
  simp only
  generalize log2At k z = e at *
  split
  next hmin =>
    have hn := shiftBy_mul_zpow heq hw
    generalize shiftBy k (z - p.unitExp) = n at hn
    have hf : n < 2 ^ p.fb := by
      rw [← not_le, ← natCast_mul_zpow_le (a := p.unitExp), hn, two_pow_natCast_mul, not_le]
      refine hhi.trans_le (zpow_le_zpow_right₀ one_le_two ?_)
      simp only [Prec.unitExp]
      omega
    exact ⟨sign_pack s (Nat.two_pow_pos _) hf, isFinite_pack s (eall_pos p) hf, (magR_pack_zero s hf).trans hn⟩
  next hmin =>
    have hw' : e - p.fb ≤ w := by
      have hlt : (2 : ℝ) ^ e < 2 ^ ((p.sigBits : ℤ) + w) := by
        rw [← two_pow_natCast_mul]
        refine (heq ▸ hlo).trans_lt (mul_lt_mul_of_pos_right ?_ (by positivity))
        exact_mod_cast hj
      have := (zpow_lt_zpow_iff_right₀ (one_lt_two (α := ℝ))).1 hlt
      rw [sigBits_eq] at this
      omega
    have hn := shiftBy_mul_zpow heq hw'
    generalize shiftBy k (z - (e - p.fb)) = n at hn
    have hn1 : 2 ^ p.fb ≤ n := by
      rw [← natCast_mul_zpow_le (a := e - p.fb), hn, two_pow_natCast_mul, add_sub_cancel]
      exact hlo
    have hn2 : n < 2 ^ (p.fb + 1) := by
      have he : ((p.fb + 1 : ℕ) : ℤ) + (e - p.fb) = e + 1 := by push_cast; ring
      rw [← not_le, ← natCast_mul_zpow_le (a := e - p.fb), hn, two_pow_natCast_mul, he, not_le]
      exact hhi
    have hb := eall_eq p
    have hf : n - 2 ^ p.fb < 2 ^ p.fb := by rw [pow_succ] at hn2; omega
    have he : (e + p.bias).toNat < p.eall := by simp only [Prec.emax] at hmax; omega
    exact ⟨sign_pack s (he.trans (eall_lt p)) hf, isFinite_pack s he hf,
      (magR_pack_normal s (not_lt.1 hmin) hmax hn1 hn2).trans hn⟩

/-! ### The gaps between finite lanes -/

/-- No value in the open gap between `lo * 2^z` and `(lo + 1) * 2^z`. -/
def OutsideGap (lo : ℕ) (z : ℤ) (y : ℝ) : Prop := y ≤ lo * 2 ^ z ∨ (lo + 1) * 2 ^ z ≤ y

/-- No finite magnitude lies strictly between neighbours of a grid that is either that of the smallest denormal, or so fine
that the lower neighbour takes full precision. -/
theorem outsideGap_magR (v : Lane p) {lo : ℕ} {z : ℤ} (h : z = p.unitExp ∨ 2 ^ p.fb ≤ lo) : OutsideGap lo z (magR v) := by
  obtain ⟨j, w, hj, hw, hv⟩ := magR_eq_mul_zpow v
  unfold OutsideGap
  rw [hv]
  by_cases hzw : z ≤ w
  · obtain ⟨i, rfl⟩ : ∃ i : ℕ, w = i + z := ⟨(w - z).toNat, by omega⟩
    rw [← two_pow_natCast_mul, ← mul_assoc, ← Nat.cast_mul, ← Nat.cast_add_one, natCast_mul_zpow_le, natCast_mul_zpow_le]
    omega
  · left
    have hlo : 2 ^ p.fb ≤ lo := h.resolve_left (by omega)
    calc (j : ℝ) * 2 ^ w ≤ (2 ^ p.sigBits : ℕ) * 2 ^ w := natCast_mul_zpow_le.2 hj.le
      _ = 2 ^ (p.sigBits + w) := two_pow_natCast_mul _ _
      _ ≤ 2 ^ (p.fb + z) := zpow_le_zpow_right₀ one_le_two (by rw [sigBits_eq]; push_cast; omega)
      _ = (2 ^ p.fb : ℕ) * 2 ^ z := (two_pow_natCast_mul _ _).symm
      _ ≤ lo * 2 ^ z := natCast_mul_zpow_le.2 hlo

/-- The values on the other side of zero are outside the gap as well. -/
theorem outsideGap_valQ (s : Bool) (v : Lane p) {lo : ℕ} {z : ℤ} (h : z = p.unitExp ∨ 2 ^ p.fb ≤ lo) :
    OutsideGap lo z (toward s (valQ v : ℚ)) := by
  rw [valQ_cast]
  by_cases hs : sign v = s
  · rw [hs, toward_toward]
    exact outsideGap_magR v h
  · left
    have hneg : toward s (toward (sign v) (magR v)) = -magR v := by
      revert hs
      cases s <;> cases sign v <;> simp
    have := magR_nonneg v
    rw [hneg]
    exact le_trans (by linarith) (by positivity : (0 : ℝ) ≤ lo * 2 ^ z)

/-! ### A magnitude rounded to a grid among the values outside its gap -/

/-- A magnitude rounded to a multiple of `2^z`. -/
noncomputable def roundAt (d : Direction) (z : ℤ) (a : ℝ) : ℝ := roundNat d (a / 2 ^ z) * 2 ^ z

section RoundAt

variable {d : Direction} {z : ℤ} {a y : ℝ} (ha : 0 ≤ a)
include ha

theorem floor_mul_zpow_le : (⌊a / 2 ^ z⌋₊ : ℝ) * 2 ^ z ≤ a :=
  (le_div_iff₀ (by positivity)).1 (Nat.floor_le (by positivity))

omit ha in
theorem lt_floor_add_one_mul_zpow : a < ((⌊a / 2 ^ z⌋₊ : ℝ) + 1) * 2 ^ z :=
  (div_lt_iff₀ (by positivity)).1 (Nat.lt_floor_add_one _)

omit ha in
theorem roundAt_nonneg : 0 ≤ roundAt d z a := by unfold roundAt; positivity

/-- Rounding answers one of the two neighbours, the upper one only off the grid. -/
theorem roundAt_cases :
    roundAt d z a = ⌊a / 2 ^ z⌋₊ * 2 ^ z ∨
      (roundAt d z a = (⌊a / 2 ^ z⌋₊ + 1) * 2 ^ z ∧ (⌊a / 2 ^ z⌋₊ : ℝ) * 2 ^ z < a) := by
  unfold roundAt
  rcases roundNat_cases d (by positivity : 0 ≤ a / 2 ^ z) with h | ⟨h, hlt⟩
  · exact .inl (by rw [h])
  · exact .inr ⟨by rw [h, Nat.cast_add_one], (lt_div_iff₀ (by positivity)).1 hlt⟩

theorem roundAt_down_le : roundAt .down z a ≤ a := floor_mul_zpow_le ha

omit ha in
theorem le_roundAt_up : a ≤ roundAt .up z a := (div_le_iff₀ (by positivity)).1 (Nat.le_ceil _)

omit ha in
/-- Rounded down it is the greatest value not above it. -/
theorem le_roundAt_down (hy : OutsideGap ⌊a / 2 ^ z⌋₊ z y) (h : y ≤ a) : y ≤ roundAt .down z a :=
  hy.resolve_right fun hy' => absurd (hy'.trans h) (not_le.2 lt_floor_add_one_mul_zpow)

/-- Rounded up it is the least value not below it. -/
theorem roundAt_up_le (hy : OutsideGap ⌊a / 2 ^ z⌋₊ z y) (h : a ≤ y) : roundAt .up z a ≤ y := by
  rcases roundAt_cases (d := .up) (z := z) ha with hr | ⟨hr, hlt⟩
  · rw [hr]
    exact (floor_mul_zpow_le ha).trans h
  · rw [hr]
    exact hy.resolve_left fun hy' => absurd (h.trans hy') (not_le.2 hlt)

theorem roundAt_nearest :
    |a - roundAt .nearest z a| ≤ 2 ^ z / 2 ∧
      (|a - roundAt .nearest z a| = 2 ^ z / 2 → Even (roundNat .nearest (a / 2 ^ z))) := by
  have hz : (0 : ℝ) < 2 ^ z := by positivity
  obtain ⟨hle, heq⟩ := roundNat_nearest (by positivity : 0 ≤ a / 2 ^ z)
  have hscale : |a - roundAt .nearest z a| = |a / 2 ^ z - roundNat .nearest (a / 2 ^ z)| * 2 ^ z := by
    rw [← abs_of_pos hz, ← abs_mul, abs_of_pos hz, sub_mul, div_mul_cancel₀ _ hz.ne', roundAt]
  rw [hscale]
  constructor
  · nlinarith
  · intro h
    exact heq (by nlinarith)

/-- Rounded to nearest it is at least as near as any value, and where another one is as near its multiple is even. -/
theorem roundAt_nearest_of_outsideGap (hy : OutsideGap ⌊a / 2 ^ z⌋₊ z y) :
    |roundAt .nearest z a - a| ≤ |y - a| ∧
      (y ≠ roundAt .nearest z a → |y - a| = |roundAt .nearest z a - a| → Even (roundNat .nearest (a / 2 ^ z))) := by
  obtain ⟨hle, heven⟩ := roundAt_nearest (z := z) ha
  rw [abs_sub_comm (roundAt _ _ _)]
  have hlo := floor_mul_zpow_le (z := z) ha
  have hhi := lt_floor_add_one_mul_zpow (z := z) (a := a)
  rcases roundAt_cases (d := .nearest) (z := z) ha with hr | ⟨hr, hlt⟩
  · rw [hr, abs_of_nonneg (by linarith)] at hle heven ⊢
    rcases hy with hy | hy
    · rw [abs_of_nonpos (by linarith)]
      exact ⟨by linarith, fun hne h => absurd (by linarith) hne⟩
    · rw [abs_of_nonneg (by linarith)]
      exact ⟨by linarith, fun _ h => heven (by linarith)⟩
  · rw [hr, abs_of_nonpos (by linarith)] at hle heven ⊢
    rcases hy with hy | hy
    · rw [abs_of_nonpos (by linarith)]
      exact ⟨by linarith, fun _ h => heven (by linarith)⟩
    · rw [abs_of_nonneg (by linarith)]
      exact ⟨by linarith, fun hne h => absurd (by linarith) hne⟩

end RoundAt

end Sys2Proof.Machine
end

section
/-! SUPPORT. Correct rounding: the value of a magnitude rounded to the right grid, or of an overflow, is the correctly
rounded one of `RoundedTo`, and tininess and overflow are the two thresholds of R112 (40_numerics.md R111, R112, R116). -/

namespace Sys2Proof.Machine

variable {p : Prec}

/-! ### The last bit -/

theorem getLsbD_zero_eq_frac (v : Lane p) : v.getLsbD 0 = decide (frac v % 2 = 1) := by
  rw [frac_eq_mod, Nat.mod_mod_of_dvd _ (dvd_pow_self 2 (fb_pos p).ne'), ← Nat.testBit_zero]
  rfl

/-- The significand of a lane that is no NaN and no infinity: an odd last bit makes it odd. -/
theorem exists_odd_of_getLsbD {v : Lane p} (h : v.getLsbD 0 = true) :
    ∃ (n i : ℕ), Odd n ∧ magR v = n * 2 ^ (p.unitExp + i) ∧
      ((n < 2 ^ p.fb ∧ i = 0) ∨ 2 ^ p.fb < n) := by
  have hodd : Odd (frac v) := by
    rw [getLsbD_zero_eq_frac, decide_eq_true_eq] at h
    exact Nat.odd_iff.2 h
  have heven : Even (2 ^ p.fb) := (Nat.even_pow' (fb_pos p).ne').2 even_two
  by_cases he : expf v = 0
  · refine ⟨frac v, 0, hodd, ?_, .inl ⟨frac_lt v, rfl⟩⟩
    rw [magR, magUnits_of_expf_eq_zero he, Nat.cast_zero, add_zero]
  · refine ⟨2 ^ p.fb + frac v, expf v - 1, heven.add_odd hodd, ?_, .inr (by have := hodd.pos; omega)⟩
    rw [magR, magUnits_of_expf_ne_zero he, zpow_add₀ two_ne_zero, zpow_natCast]
    push_cast
    ring

/-- A lane that holds an even multiple of a power of two, of full precision or on the denormal grid, has an even last bit. -/
theorem getLsbD_zero_eq_false_of_even {v : Lane p} {k : ℕ} {z : ℤ} (hv : magR v = k * 2 ^ z) (heven : Even k)
    (hk : k ≤ 2 ^ (p.fb + 1)) (hz : p.unitExp ≤ z ∨ (2 : ℝ) ^ p.emin ≤ k * 2 ^ z) : v.getLsbD 0 = false := by
  by_contra hbit
  obtain ⟨n, i, hodd, hn, hcase⟩ := exists_odd_of_getLsbD (Bool.eq_true_of_not_eq_false hbit)
  have hq : ((n : ℤ) : ℚ) * (2 : ℚ) ^ (p.unitExp + (i : ℤ)) = ((k : ℤ) : ℚ) * (2 : ℚ) ^ z := by
    have hr : (((n : ℤ) : ℚ) * (2 : ℚ) ^ (p.unitExp + (i : ℤ)) : ℚ) = ((((k : ℤ) : ℚ) * (2 : ℚ) ^ z : ℚ) : ℝ) := by
      push_cast
      exact hn.symm.trans hv
    exact_mod_cast hr
  obtain ⟨hle, hkn⟩ := odd_mul_zpow_eq (by exact_mod_cast hodd) hq
  obtain ⟨j, hj⟩ : ∃ j : ℕ, p.unitExp + (i : ℤ) = z + j := ⟨(p.unitExp + i - z).toNat, by omega⟩
  have hkn' : k = n * 2 ^ j := by
    rw [hj, add_sub_cancel_left, Int.toNat_natCast] at hkn
    exact_mod_cast hkn
  have hj0 : j ≠ 0 := by
    rintro rfl
    rw [pow_zero, mul_one] at hkn'
    exact Nat.not_even_iff_odd.2 hodd (hkn' ▸ heven)
  rcases hcase with ⟨hlt, rfl⟩ | hgt
  · have hmin : (k : ℝ) * 2 ^ z < 2 ^ p.emin := by
      have hcast : (n : ℝ) * 2 ^ p.unitExp < (2 ^ p.fb : ℕ) * 2 ^ p.unitExp :=
        mul_lt_mul_of_pos_right (by exact_mod_cast hlt) (by positivity)
      rw [two_pow_natCast_mul, show (p.fb : ℤ) + p.unitExp = p.emin by simp [Prec.unitExp]] at hcast
      rw [← hv, hn, Nat.cast_zero, add_zero]
      exact hcast
    have := hz.resolve_right (not_le.2 hmin)
    omega
  · have h2 : 2 ≤ 2 ^ j := Nat.le_self_pow hj0 2
    have : n * 2 ≤ n * 2 ^ j := Nat.mul_le_mul_left n h2
    rw [pow_succ] at hk
    omega

/-! ### Correctly rounded values

`v` is a finite lane of sign `s` whose magnitude is `a` rounded to a grid with no finite lane in its gap; `x` is `a` on the
side of zero of that sign. -/

section RoundedTo

variable {v : Lane p} {s : Bool} {a x : ℝ} {z : ℤ} (ha : 0 ≤ a) (hx : toward s a = x)
  (hgap : z = p.unitExp ∨ 2 ^ p.fb ≤ ⌊a / 2 ^ z⌋₊) (hfin : isFinite v = true) (hsign : sign v = s)
include ha hx hgap hfin hsign

theorem roundedTo_rn (hmag : magR v = roundAt .nearest z a)
    (heven : Even (roundNat .nearest (a / 2 ^ z)) → v.getLsbD 0 = false) (hmax : a < (overflowThreshold p : ℝ)) :
    RoundedTo .rn v x := by
  have hval : ((valQ v : ℚ) : ℝ) = toward s (roundAt .nearest z a) := by rw [valQ_cast, hsign, hmag]
  have hdist (y : ℝ) : |y - x| = |toward s y - a| := by
    conv_lhs => rw [← hx, ← toward_toward s y, toward_sub, abs_toward]
  have habs : |x| = a := by rw [← hx, abs_toward, abs_of_nonneg ha]
  refine ⟨fun _ => ⟨hfin, fun y _ => ?_, fun y _ hne htie => ?_⟩, fun h => absurd hmax (not_lt.2 (habs ▸ h))⟩
  · obtain ⟨hnear, -⟩ := roundAt_nearest_of_outsideGap ha (outsideGap_valQ s y hgap)
    rw [hdist, hdist (valQ y : ℚ), hval, toward_toward]
    exact hnear
  · obtain ⟨-, hev⟩ := roundAt_nearest_of_outsideGap ha (outsideGap_valQ s y hgap)
    rw [hdist, hdist (valQ v : ℚ), hval, toward_toward] at htie
    refine heven (hev (fun heq => hne ?_) htie)
    have hreal : ((valQ y : ℚ) : ℝ) = (valQ v : ℚ) := by rw [hval, ← heq, toward_toward]
    exact_mod_cast hreal

theorem roundedTo_rz (hmag : magR v = roundAt .down z a) : RoundedTo .rz v x := by
  have hval : ((valQ v : ℚ) : ℝ) = toward s (roundAt .down z a) := by rw [valQ_cast, hsign, hmag]
  have habs : |x| = a := by rw [← hx, abs_toward, abs_of_nonneg ha]
  have hr0 : 0 ≤ roundAt .down z a := roundAt_nonneg
  refine ⟨hfin, ?_, ?_, fun y _ hy => ?_⟩
  · rw [abs_valQ_cast, hmag, habs]
    exact roundAt_down_le ha
  · have hprod : ((valQ v : ℚ) : ℝ) * x = roundAt .down z a * a := by
      rw [hval, ← hx]
      cases s <;> simp
    rw [hprod]
    exact mul_nonneg hr0 ha
  · rw [abs_valQ_cast, habs] at hy
    have hle : magR y ≤ magR v := hmag ▸ le_roundAt_down (outsideGap_magR y hgap) hy
    rw [← abs_valQ_cast, ← abs_valQ_cast v] at hle
    exact_mod_cast hle

/-- Toward minus infinity: down above zero, up below. -/
theorem roundedTo_rd (hmag : magR v = roundAt (RoundingMode.rd.direction s) z a) : RoundedTo .rd v x := by
  have hval : ((valQ v : ℚ) : ℝ) = toward s (roundAt (RoundingMode.rd.direction s) z a) := by
    rw [valQ_cast, hsign, hmag]
  subst hx
  cases s with
  | false =>
    have hout (y : Lane p) := outsideGap_valQ false y hgap
    refine .inr ⟨hfin, ?_, fun y _ hy => ?_⟩
    · rw [hval]
      exact roundAt_down_le ha
    · have hle : ((valQ y : ℚ) : ℝ) ≤ (valQ v : ℚ) := hval ▸ le_roundAt_down (hout y) hy
      exact_mod_cast hle
  | true =>
    have hout (y : Lane p) := outsideGap_valQ true y hgap
    refine .inr ⟨hfin, ?_, fun y _ hy => ?_⟩
    · rw [hval]
      exact neg_le_neg le_roundAt_up
    · have hle : ((valQ y : ℚ) : ℝ) ≤ (valQ v : ℚ) := by
        rw [hval]
        exact le_neg_of_le_neg (roundAt_up_le ha (hout y) (le_neg_of_le_neg hy))
      exact_mod_cast hle

/-- Toward plus infinity: up above zero, down below. -/
theorem roundedTo_ru (hmag : magR v = roundAt (RoundingMode.ru.direction s) z a) : RoundedTo .ru v x := by
  have hval : ((valQ v : ℚ) : ℝ) = toward s (roundAt (RoundingMode.ru.direction s) z a) := by
    rw [valQ_cast, hsign, hmag]
  subst hx
  cases s with
  | false =>
    have hout (y : Lane p) := outsideGap_valQ false y hgap
    refine .inr ⟨hfin, ?_, fun y _ hy => ?_⟩
    · rw [hval]
      exact le_roundAt_up
    · have hle : ((valQ v : ℚ) : ℝ) ≤ (valQ y : ℚ) := hval ▸ roundAt_up_le ha (hout y) hy
      exact_mod_cast hle
  | true =>
    have hout (y : Lane p) := outsideGap_valQ true y hgap
    refine .inr ⟨hfin, ?_, fun y _ hy => ?_⟩
    · rw [hval]
      exact neg_le_neg (roundAt_down_le ha)
    · have hle : ((valQ v : ℚ) : ℝ) ≤ (valQ y : ℚ) := by
        rw [hval]
        exact neg_le_of_neg_le (le_roundAt_down (hout y) (neg_le_of_neg_le hy))
      exact_mod_cast hle

/-- A finite lane with a rounded magnitude and an even last bit where the multiple is even is the correctly rounded
value, wherever nearest-even does not overflow. -/
theorem roundedTo_of_roundAt {rm : RoundingMode} (hmag : magR v = roundAt (rm.direction s) z a)
    (heven : Even (roundNat (rm.direction s) (a / 2 ^ z)) → v.getLsbD 0 = false)
    (hmax : rm = .rn → a < (overflowThreshold p : ℝ)) : RoundedTo rm v x := by
  cases rm with
  | rn => exact roundedTo_rn ha hx hgap hfin hsign hmag heven (hmax rfl)
  | rz => exact roundedTo_rz ha hx hgap hfin hsign hmag
  | rd => exact roundedTo_rd ha hx hgap hfin hsign hmag
  | ru => exact roundedTo_ru ha hx hgap hfin hsign hmag

end RoundedTo

end Sys2Proof.Machine
end

section
/-! SUPPORT. The largest finite lane, and the two thresholds of R112 on the value rounded to full precision: overflow and
tininess (40_numerics.md R112, R116, R117). -/

namespace Sys2Proof.Machine

variable {p : Prec}

/-! ### The largest finite magnitude (40_numerics.md R116) -/

theorem maxFinite_fields_lt (p : Prec) : p.eall - 1 < p.eall ∧ 2 ^ p.fb - 1 < 2 ^ p.fb :=
  ⟨Nat.sub_lt (eall_pos p) Nat.one_pos, Nat.sub_lt (Nat.two_pow_pos _) Nat.one_pos⟩

@[simp] theorem sign_maxFinite (s : Bool) : sign (maxFinite s : Lane p) = s := by
  obtain ⟨he, hf⟩ := maxFinite_fields_lt p
  exact sign_pack s (he.trans (eall_lt p)) hf

@[simp] theorem isFinite_maxFinite (s : Bool) : isFinite (maxFinite s : Lane p) = true := by
  obtain ⟨he, hf⟩ := maxFinite_fields_lt p
  exact isFinite_pack s he hf

theorem magUnits_maxFinite (s : Bool) :
    magUnits (maxFinite s : Lane p) = (2 ^ p.fb + (2 ^ p.fb - 1)) * 2 ^ (p.eall - 2) := by
  obtain ⟨he, hf⟩ := maxFinite_fields_lt p
  have hb := eall_eq p
  have hb0 := bias_pos p
  rw [maxFinite, magUnits_pack s he hf, if_neg (by omega)]
  rfl

/-- No finite lane is greater in magnitude. -/
theorem magR_le_maxFinite (s : Bool) {v : Lane p} (hv : isFinite v = true) : magR v ≤ magR (maxFinite s : Lane p) := by
  have hexp : expf v < p.eall := lt_of_le_of_ne (expf_le_eall v) (by simpa [isFinite] using hv)
  have hf := frac_lt v
  have hpos : 1 ≤ 2 ^ (p.eall - 2) := Nat.one_le_two_pow
  have hle : magUnits v ≤ magUnits (maxFinite s : Lane p) := by
    rw [magUnits_maxFinite]
    by_cases h : expf v = 0
    · rw [magUnits_of_expf_eq_zero h]
      nlinarith
    · rw [magUnits_of_expf_ne_zero h]
      exact Nat.mul_le_mul (by omega) (Nat.pow_le_pow_right two_pos (by omega))
  exact mul_le_mul_of_nonneg_right (by exact_mod_cast hle) (by positivity)

theorem maxQ_cast (p : Prec) : ((maxQ p : ℚ) : ℝ) = (2 : ℝ) ^ (p.emax + 1) - 2 ^ (p.emax + 1 - p.sigBits) := by
  simp [maxQ]

theorem overflowThreshold_cast (p : Prec) :
    ((overflowThreshold p : ℚ) : ℝ) = (2 : ℝ) ^ (p.emax + 1) - 2 ^ (p.emax + 1 - p.sigBits - 1) := by
  have he : p.emax + 1 - p.sigBits - 1 = p.emax - (p.sigBits : ℤ) := by ring
  simp [overflowThreshold, he]

theorem magR_maxFinite (s : Bool) : magR (maxFinite s : Lane p) = (maxQ p : ℚ) := by
  have hb := eall_eq p
  have hb0 := bias_pos p
  have hn : 2 ^ p.fb + (2 ^ p.fb - 1) = 2 ^ p.sigBits - 1 := by rw [sigBits_eq, pow_succ]; omega
  have hexp : ((p.eall - 2 : ℕ) : ℤ) + p.unitExp = p.emax + 1 - p.sigBits := by
    simp only [Prec.unitExp, Prec.emin, Prec.emax, sigBits_eq]
    omega
  have hsum : p.emax + 1 = p.sigBits + (p.emax + 1 - p.sigBits) := by ring
  rw [magR, magUnits_maxFinite, hn, Nat.cast_mul, mul_assoc, two_pow_natCast_mul, hexp, maxQ_cast,
    Nat.cast_sub Nat.one_le_two_pow, sub_mul, two_pow_natCast_mul, ← hsum, Nat.cast_one, one_mul]

theorem magR_lt_zpow {v : Lane p} (hv : isFinite v = true) : magR v < 2 ^ (p.emax + 1) := by
  refine (magR_le_maxFinite false hv).trans_lt ?_
  rw [magR_maxFinite, maxQ_cast]
  exact sub_lt_self _ (by positivity)

/-- The value of an overflow is the correctly rounded one (40_numerics.md R116): an infinity beyond every finite value, or
the largest finite value of its sign. -/
theorem roundedTo_overflow {rm : RoundingMode} {s : Bool} {a x : ℝ} (ha : 0 < a) (hx : toward s a = x)
    (hnear : rm = .rn → (overflowThreshold p : ℝ) ≤ a) (hmax : rm ≠ .rn → ((maxQ p : ℚ) : ℝ) < a) :
    RoundedTo rm (if overflowsToInfinity rm s then infinity s else maxFinite s : Lane p) x := by
  have habs : |x| = a := by rw [← hx, abs_toward, abs_of_pos ha]
  have hle {y : Lane p} (hy : isFinite y = true) : |((valQ y : ℚ) : ℝ)| ≤ (maxQ p : ℚ) := by
    rw [abs_valQ_cast, ← magR_maxFinite false]
    exact magR_le_maxFinite false hy
  have hval (t : Bool) : ((valQ (maxFinite t : Lane p) : ℚ) : ℝ) = toward t (maxQ p : ℚ) := by
    rw [valQ_cast, sign_maxFinite, magR_maxFinite]
  have hlt (hrm : rm ≠ .rn) {y : Lane p} (hy : isFinite y = true) : |((valQ y : ℚ) : ℝ)| < a :=
    (hle hy).trans_lt (hmax hrm)
  subst hx
  cases rm with
  | rn =>
    refine ⟨fun h => absurd (hnear rfl) (not_le.2 (habs ▸ h)), fun _ => ?_⟩
    cases s <;> simp [overflowsToInfinity, ha, ha.not_gt]
  | rz =>
    have hmag (t : Bool) : |((valQ (maxFinite t : Lane p) : ℚ) : ℝ)| = (maxQ p : ℚ) := by
      rw [abs_valQ_cast, magR_maxFinite]
    refine ⟨isFinite_maxFinite s, ?_, ?_, fun y hy _ => ?_⟩
    · rw [habs]
      exact (hlt (by decide) (isFinite_maxFinite s)).le
    · have hprod : ((valQ (maxFinite s : Lane p) : ℚ) : ℝ) * toward s a = (maxQ p : ℚ) * a := by
        rw [hval]
        cases s <;> simp
      change 0 ≤ ((valQ (maxFinite s : Lane p) : ℚ) : ℝ) * toward s a
      rw [hprod, ← hmag false]
      exact mul_nonneg (abs_nonneg _) ha.le
    · have hy' := (hle hy).trans_eq (hmag s).symm
      exact_mod_cast hy'
  | rd =>
    cases s with
    | true => exact .inl ⟨rfl, fun y hy => neg_lt_of_abs_lt (hlt (by decide) hy)⟩
    | false =>
      refine .inr ⟨isFinite_maxFinite false, (lt_of_abs_lt (hlt (by decide) (isFinite_maxFinite false))).le,
        fun y hy _ => ?_⟩
      have hy' := (le_of_abs_le (hle hy)).trans_eq (hval false).symm
      exact_mod_cast hy'
  | ru =>
    cases s with
    | false => exact .inl ⟨rfl, fun y hy => lt_of_abs_lt (hlt (by decide) hy)⟩
    | true =>
      refine .inr ⟨isFinite_maxFinite true, (neg_lt_of_abs_lt (hlt (by decide) (isFinite_maxFinite true))).le,
        fun y hy _ => ?_⟩
      have hy' := (hval true).trans_le (neg_le_of_abs_le (hle hy))
      exact_mod_cast hy'

/-! ### Rounding to full precision (40_numerics.md R112) -/

/-- A magnitude rounded passes an even whole number from a threshold that its direction sets. -/
theorem le_roundNat_iff (d : Direction) {x : ℝ} (hx : 0 ≤ x) {n : ℕ} (hn : 0 < n) (heven : Even n) :
    n ≤ roundNat d x ↔
      match d with
      | .down => (n : ℝ) ≤ x
      | .up => (n : ℝ) - 1 < x
      | .nearest => (n : ℝ) - 1 / 2 ≤ x := by
  cases d with
  | down => exact Nat.le_floor_iff hx
  | up =>
    obtain ⟨m, rfl⟩ : ∃ m, n = m + 1 := ⟨n - 1, by omega⟩
    simp only [roundNat, Nat.add_one_le_iff, Nat.lt_ceil]
    push_cast
    rw [add_sub_cancel_right]
  | nearest =>
    have hlo := Nat.floor_le hx
    have hhi := Nat.lt_floor_add_one x
    rw [Nat.even_iff] at heven
    rcases lt_trichotomy n (⌊x⌋₊ + 1) with h | h | h
    · have hle : n ≤ ⌊x⌋₊ := by omega
      have hle' : (n : ℝ) ≤ ⌊x⌋₊ := by exact_mod_cast hle
      refine iff_of_true ?_ (by simp only; linarith)
      rcases roundNat_cases .nearest hx with hr | ⟨hr, -⟩ <;> omega
    · have hn' : (n : ℝ) = ⌊x⌋₊ + 1 := by exact_mod_cast h
      simp only [roundNat]
      split_ifs with h1 h2 h3
      · exact iff_of_false (by omega) (by linarith)
      · exact iff_of_true (by omega) (by linarith)
      · omega
      · exact iff_of_true (by omega) (by linarith)
    · have hlt : (⌊x⌋₊ : ℝ) + 2 ≤ n := by exact_mod_cast h
      refine iff_of_false ?_ (by simp only; linarith)
      rcases roundNat_cases .nearest hx with hr | ⟨hr, -⟩ <;> omega

/-- Rounded to `p` bits with an unbounded exponent, a magnitude is `2^e` or more. -/
def Reaches (p : Prec) (d : Direction) (e : ℤ) (a : ℝ) : Prop :=
  match d with
  | .down => (2 : ℝ) ^ e ≤ a
  | .up => (2 : ℝ) ^ e - 2 ^ (e - p.sigBits) < a
  | .nearest => (2 : ℝ) ^ e - 2 ^ (e - p.sigBits - 1) ≤ a

theorem reaches_cast (d : Direction) (e : ℤ) (q : ℚ) :
    Reaches p d e ((q : ℚ) : ℝ) ↔
      match d with
      | .down => (2 : ℚ) ^ e ≤ q
      | .up => (2 : ℚ) ^ e - 2 ^ (e - p.sigBits) < q
      | .nearest => (2 : ℚ) ^ e - 2 ^ (e - p.sigBits - 1) ≤ q := by
  have hdown : (2 : ℝ) ^ e = ((2 ^ e : ℚ) : ℝ) := by push_cast; rfl
  have hup (i : ℤ) : (2 : ℝ) ^ e - 2 ^ i = ((2 ^ e - 2 ^ i : ℚ) : ℝ) := by push_cast; rfl
  cases d with
  | down => simp only [Reaches, hdown, Rat.cast_le]
  | up => simp only [Reaches, hup, Rat.cast_lt]
  | nearest => simp only [Reaches, hup, Rat.cast_le]

/-- `Overflows` says that the rounded value is `2^(EMAX+1)` or more. -/
theorem overflows_iff (rm : RoundingMode) (x : ℚ) :
    Overflows p rm x ↔ Reaches p (rm.direction (decide (x < 0))) (p.emax + 1) ((|x| : ℚ) : ℝ) := by
  have he : p.emax + 1 - (p.sigBits : ℤ) - 1 = p.emax - p.sigBits := by ring
  rw [reaches_cast]
  by_cases h : x < 0
  · cases rm <;> simp [Overflows, RoundingMode.direction, h, overflowThreshold, maxQ, he]
  · cases rm <;> simp [Overflows, RoundingMode.direction, h, overflowThreshold, maxQ, he]

/-- `TinyAfterRounding` says that the rounded value of a number other than 0 is below `2^EMIN`. -/
theorem tinyAfterRounding_iff (rm : RoundingMode) (x : ℚ) :
    TinyAfterRounding p rm x ↔ x ≠ 0 ∧ ¬ Reaches p (rm.direction (decide (x < 0))) p.emin ((|x| : ℚ) : ℝ) := by
  rw [reaches_cast]
  by_cases h : x < 0
  · cases rm <;> simp [TinyAfterRounding, RoundingMode.direction, h, lt_sub_iff_add_lt]
  · cases rm <;> simp [TinyAfterRounding, RoundingMode.direction, h, lt_sub_iff_add_lt]

section FullPrecision

variable {d : Direction} {a : ℝ} {l : ℤ} (hlo : (2 : ℝ) ^ l ≤ a) (hhi : a < 2 ^ (l + 1))
include hlo hhi

/-- Against a unit of its last place a magnitude has `p` bits. -/
theorem div_ulp_bounds : ((2 ^ p.fb : ℕ) : ℝ) ≤ a / 2 ^ (l - p.fb) ∧ a / 2 ^ (l - p.fb) < (2 ^ (p.fb + 1) : ℕ) := by
  rw [le_div_iff₀ (by positivity), div_lt_iff₀ (by positivity), two_pow_natCast_mul, two_pow_natCast_mul]
  refine ⟨by rwa [add_sub_cancel], ?_⟩
  have he : ((p.fb + 1 : ℕ) : ℤ) + (l - p.fb) = l + 1 := by push_cast; ring
  rwa [he]

theorem le_floor_div_ulp : 2 ^ p.fb ≤ ⌊a / 2 ^ (l - p.fb)⌋₊ := by
  obtain ⟨h, -⟩ := div_ulp_bounds (p := p) hlo hhi
  exact Nat.le_floor h

theorem roundNat_ulp_bounds :
    2 ^ p.fb ≤ roundNat d (a / 2 ^ (l - p.fb)) ∧ roundNat d (a / 2 ^ (l - p.fb)) ≤ 2 ^ (p.fb + 1) := by
  obtain ⟨h1, h2⟩ := div_ulp_bounds (p := p) hlo hhi
  have hpos : (0 : ℝ) ≤ a / 2 ^ (l - p.fb) := le_trans (Nat.cast_nonneg _) h1
  have hfl := le_floor_div_ulp (p := p) hlo hhi
  have hlt := (Nat.floor_lt hpos).2 h2
  rcases roundNat_cases d hpos with h | ⟨h, -⟩ <;> omega

omit hhi in
/-- The power of two at a magnitude, or below it, is reached. -/
theorem reaches_of_le {e : ℤ} (he : e ≤ l) : Reaches p d e a := by
  have hle : (2 : ℝ) ^ e ≤ a := (zpow_le_zpow_right₀ one_le_two he).trans hlo
  have hpos (i : ℤ) : (0 : ℝ) < 2 ^ i := by positivity
  cases d with
  | down => exact hle
  | up => exact (sub_lt_self _ (hpos _)).trans_le hle
  | nearest => exact (sub_lt_self _ (hpos _)).le.trans hle

omit hlo in
/-- The second power of two above a magnitude is out of reach. -/
theorem not_reaches_of_lt {e : ℤ} (he : l + 1 < e) : ¬ Reaches p d e a := by
  have hlt : a < 2 ^ (e - 1) := hhi.trans_le (zpow_le_zpow_right₀ one_le_two (by omega))
  have hhalf : (2 : ℝ) ^ e = 2 ^ (e - 1) + 2 ^ (e - 1) := by
    rw [← two_mul, ← zpow_one_add₀ two_ne_zero, add_sub_cancel]
  have hsmall {i : ℤ} (hi : i ≤ e - 1) : (2 : ℝ) ^ i ≤ 2 ^ (e - 1) := zpow_le_zpow_right₀ one_le_two hi
  have hp : (1 : ℤ) ≤ p.sigBits := by rw [sigBits_eq]; push_cast; omega
  have hpos : (0 : ℝ) < 2 ^ (e - 1) := by positivity
  cases d with
  | down =>
    simp only [Reaches, not_le]
    linarith
  | up =>
    have := hsmall (i := e - p.sigBits) (by omega)
    simp only [Reaches, not_lt]
    linarith
  | nearest =>
    have := hsmall (i := e - p.sigBits - 1) (by omega)
    simp only [Reaches, not_le]
    linarith

omit hhi in
/-- The next power of two is reached by the magnitudes that round up to it. -/
theorem le_roundNat_ulp_iff : 2 ^ (p.fb + 1) ≤ roundNat d (a / 2 ^ (l - p.fb)) ↔ Reaches p d (l + 1) a := by
  have hz : (0 : ℝ) < 2 ^ (l - p.fb) := by positivity
  have ha : 0 ≤ a / 2 ^ (l - p.fb) := div_nonneg (le_trans (by positivity) hlo) hz.le
  have heven : Even (2 ^ (p.fb + 1)) := (Nat.even_pow' (Nat.succ_ne_zero _)).2 even_two
  have hexp : ((p.fb + 1 : ℕ) : ℤ) + (l - p.fb) = l + 1 := by push_cast; ring
  have hulp : l + 1 - (p.sigBits : ℤ) = l - p.fb := by rw [sigBits_eq]; push_cast; ring
  have hpow : ((2 ^ (p.fb + 1) : ℕ) : ℝ) * 2 ^ (l - p.fb) = 2 ^ (l + 1) := by rw [two_pow_natCast_mul, hexp]
  rw [le_roundNat_iff d ha (Nat.two_pow_pos _) heven]
  cases d with
  | down => simp only [Reaches, le_div_iff₀ hz, hpow]
  | up => simp only [Reaches, lt_div_iff₀ hz, sub_mul, hpow, hulp, one_mul]
  | nearest =>
    have hhalf : (1 / 2 : ℝ) * 2 ^ (l - p.fb) = 2 ^ (l - p.fb - 1) := by
      rw [zpow_sub_one₀ two_ne_zero]
      ring
    simp only [Reaches, le_div_iff₀ hz, sub_mul, hpow, hulp, hhalf]

theorem zpow_le_roundAt_iff (e : ℤ) : (2 : ℝ) ^ e ≤ roundAt d (l - p.fb) a ↔ Reaches p d e a := by
  obtain ⟨h1, h2⟩ := roundNat_ulp_bounds (p := p) (d := d) hlo hhi
  have hbelow : (2 : ℝ) ^ l ≤ roundAt d (l - p.fb) a := by
    have h := (natCast_mul_zpow_le (a := l - p.fb)).2 h1
    rwa [two_pow_natCast_mul, add_sub_cancel] at h
  have hexp : ((p.fb + 1 : ℕ) : ℤ) + (l - p.fb) = l + 1 := by push_cast; ring
  rcases lt_trichotomy e (l + 1) with he | rfl | he
  · have hel : e ≤ l := by omega
    exact iff_of_true ((zpow_le_zpow_right₀ one_le_two hel).trans hbelow) (reaches_of_le hlo hel)
  · rw [← le_roundNat_ulp_iff hlo, ← natCast_mul_zpow_le (a := l - p.fb), two_pow_natCast_mul, hexp]
    rfl
  · refine iff_of_false (not_le.2 ?_) (not_reaches_of_lt hhi he)
    have h := (natCast_mul_zpow_le (a := l - p.fb)).2 h2
    rw [two_pow_natCast_mul, hexp] at h
    exact lt_of_le_of_lt h (zpow_lt_zpow_right₀ one_lt_two he)

end FullPrecision

/-! ### Exact roundings -/

theorem roundAt_eq_iff (d : Direction) (z : ℤ) (a : ℝ) : roundAt d z a = a ↔ ∃ j : ℕ, a = j * 2 ^ z := by
  constructor
  · intro h
    exact ⟨_, h.symm⟩
  · rintro ⟨j, rfl⟩
    rw [roundAt, mul_div_cancel_right₀ _ (by positivity), roundNat_natCast]

/-- A signed multiple of a power of two by its magnitude. -/
theorem exists_int_mul_zpow_iff (x : ℚ) (e : ℤ) (P : ℕ → Prop) :
    (∃ k : ℤ, P k.natAbs ∧ x = (k : ℚ) * 2 ^ e) ↔ ∃ j : ℕ, P j ∧ ((|x| : ℚ) : ℝ) = j * 2 ^ e := by
  have hcast (j : ℕ) : ((|x| : ℚ) : ℝ) = j * 2 ^ e ↔ |x| = (j : ℚ) * 2 ^ e := by
    rw [← Rat.cast_inj (α := ℝ)]
    push_cast
    rfl
  simp only [hcast]
  constructor
  · rintro ⟨k, hk, rfl⟩
    refine ⟨k.natAbs, hk, ?_⟩
    rw [abs_mul, abs_of_pos (by positivity : (0 : ℚ) < 2 ^ e), Nat.cast_natAbs, Int.cast_abs]
  · rintro ⟨j, hj, h⟩
    rcases abs_choice x with hx | hx
    · exact ⟨j, hj, by rw [← hx, h]; rfl⟩
    · exact ⟨-j, by rwa [Int.natAbs_neg], by rw [Int.cast_neg, neg_mul, Int.cast_natCast, ← h, hx, neg_neg]⟩

/-- Rounding to full precision is exact for what takes no more than `p` bits. -/
theorem roundAt_eq_iff_fitsPrecision {d : Direction} {l : ℤ} {x : ℚ} (hlo : (2 : ℝ) ^ l ≤ ((|x| : ℚ) : ℝ))
    (hhi : ((|x| : ℚ) : ℝ) < 2 ^ (l + 1)) :
    roundAt d (l - p.fb) ((|x| : ℚ) : ℝ) = ((|x| : ℚ) : ℝ) ↔ FitsPrecision p x := by
  have hfits : FitsPrecision p x ↔ ∃ (e : ℤ) (j : ℕ), j < 2 ^ p.sigBits ∧ ((|x| : ℚ) : ℝ) = j * 2 ^ e := by
    simp only [← exists_int_mul_zpow_iff x _ (· < 2 ^ p.sigBits), FitsPrecision]
    rw [exists_comm]
    refine exists_congr fun e => exists_congr fun k => and_congr_left fun _ => ?_
    rw [Int.abs_eq_natAbs]
    exact_mod_cast Iff.rfl
  have hexp : ((p.fb + 1 : ℕ) : ℤ) + (l - p.fb) = l + 1 := by push_cast; ring
  rw [roundAt_eq_iff, hfits]
  constructor
  · rintro ⟨j, hj⟩
    refine ⟨l - p.fb, j, ?_, hj⟩
    rw [sigBits_eq, ← not_le, ← natCast_mul_zpow_le (a := l - p.fb), ← hj, two_pow_natCast_mul, hexp, not_le]
    exact hhi
  · rintro ⟨e, j, hj, hx⟩
    have hlt : (2 : ℝ) ^ l < 2 ^ ((p.sigBits : ℤ) + e) := by
      rw [← two_pow_natCast_mul]
      exact (hx ▸ hlo).trans_lt (mul_lt_mul_of_pos_right (by exact_mod_cast hj) (by positivity))
    have hle := (zpow_lt_zpow_iff_right₀ (one_lt_two (α := ℝ))).1 hlt
    rw [sigBits_eq] at hle
    obtain ⟨i, rfl⟩ : ∃ i : ℕ, e = i + (l - p.fb) := ⟨(e - (l - p.fb)).toNat, by omega⟩
    refine ⟨j * 2 ^ i, ?_⟩
    rw [hx, zpow_add₀ two_ne_zero, zpow_natCast]
    push_cast
    ring

/-- Rounding to the denormal grid is exact for what lies on it. -/
theorem roundAt_eq_iff_onDenormalGrid {d : Direction} {x : ℚ} :
    roundAt d p.unitExp ((|x| : ℚ) : ℝ) = ((|x| : ℚ) : ℝ) ↔ OnDenormalGrid p x := by
  have h := exists_int_mul_zpow_iff x p.unitExp fun _ => True
  simp only [true_and] at h
  rw [roundAt_eq_iff, OnDenormalGrid]
  exact h.symm

end Sys2Proof.Machine
end

section
/-! SUPPORT. What `round_pack` answers, by the real number it rounds: an overflow, a value of full precision or a tiny one,
and for each its value and its flags (40_numerics.md R112, R113, R116, R117). -/

namespace Sys2Proof.Machine

variable {p : Prec}

/-- `r` is a lane of a format that holds a magnitude rounded to a multiple of `2^z`: its sign, its value, and an even last
bit where the multiple is even. -/
structure HoldsRounded (d : Direction) (s : Bool) (z : ℤ) (a : ℝ) (v : Lane p) : Prop where
  sign_eq : sign v = s
  finite : isFinite v = true
  magR_eq : magR v = roundAt d z a
  even_of_even : Even (roundNat d (a / 2 ^ z)) → v.getLsbD 0 = false

/-- The rounding direction of a context on one side of zero. -/
def StatusContext.direction (sc : StatusContext) (s : Bool) : Direction := sc.roundingMode.direction s

/-- The value a lane holds is exact when the rounding of the magnitude is. -/
theorem HoldsRounded.valQ_eq_iff {d : Direction} {z : ℤ} {x : ℚ} {v : Lane p}
    (h : HoldsRounded d (decide (x < 0)) z ((|x| : ℚ) : ℝ) v) :
    valQ v = x ↔ roundAt d z ((|x| : ℚ) : ℝ) = ((|x| : ℚ) : ℝ) := by
  have hx : ((x : ℚ) : ℝ) = toward (decide (x < 0)) ((|x| : ℚ) : ℝ) := by
    have := toward_abs ((x : ℚ) : ℝ)
    rw [← this, Rat.cast_abs]
    simp only [Rat.cast_lt_zero]
  have hinj (s : Bool) (y w : ℝ) : toward s y = toward s w ↔ y = w := by cases s <;> simp
  rw [← Rat.cast_inj (α := ℝ), valQ_cast, h.sign_eq, h.magR_eq, hx, hinj]

theorem holdsRounded_signedZero {d : Direction} (s : Bool) {z : ℤ} {a : ℝ} (h : roundNat d (a / 2 ^ z) = 0) :
    HoldsRounded d s z a (signedZero s : Lane p) where
  sign_eq := sign_signedZero s
  finite := isFinite_of_expf_eq_zero (expf_signedZero s)
  magR_eq := by rw [magR, magUnits_signedZero, roundAt, h, Nat.cast_zero, zero_mul, zero_mul]
  even_of_even _ := by rw [getLsbD_zero_eq_frac, frac_signedZero]; rfl

/-- A normal magnitude of at most `2^p` units is a value of the format: `2^p` of them are half as many of twice the
size. -/
theorem exists_fit_of_emin_le {k : ℕ} {z : ℤ} (hle : k ≤ 2 ^ (p.fb + 1)) (hmin : (2 : ℝ) ^ p.emin ≤ k * 2 ^ z) :
    ∃ (j : ℕ) (w : ℤ), j < 2 ^ p.sigBits ∧ p.unitExp ≤ w ∧ (k : ℝ) * 2 ^ z = j * 2 ^ w := by
  have hunit : p.unitExp = p.emin - p.fb := rfl
  rcases hle.lt_or_eq with hlt | rfl
  · refine ⟨k, z, hlt, ?_, rfl⟩
    have hexp : (2 : ℝ) ^ p.emin < 2 ^ (((p.fb + 1 : ℕ) : ℤ) + z) := by
      rw [← two_pow_natCast_mul]
      exact hmin.trans_lt (mul_lt_mul_of_pos_right (by exact_mod_cast hlt) (by positivity))
    have := (zpow_lt_zpow_iff_right₀ (one_lt_two (α := ℝ))).1 hexp
    push_cast at this
    omega
  · refine ⟨2 ^ p.fb, z + 1, Nat.pow_lt_pow_right one_lt_two (Nat.lt_succ_self _), ?_, ?_⟩
    · rw [two_pow_natCast_mul] at hmin
      have := (zpow_le_zpow_iff_right₀ (one_lt_two (α := ℝ))).1 hmin
      push_cast at this
      omega
    · rw [two_pow_natCast_mul, two_pow_natCast_mul]
      congr 1
      push_cast
      ring

/-- `pack_exact` holds a magnitude rounded to a multiple `k` of `2^z` that fits the format. -/
theorem holdsRounded_packExact {d : Direction} (s : Bool) {z : ℤ} {a : ℝ} {k : ℕ} (hk : roundNat d (a / 2 ^ z) = k)
    (hpos : 0 < k) (hmax : log2At k z ≤ p.emax) (hle : k ≤ 2 ^ (p.fb + 1))
    (hz : p.unitExp ≤ z ∧ k < 2 ^ (p.fb + 1) ∨ (2 : ℝ) ^ p.emin ≤ k * 2 ^ z) :
    HoldsRounded d s z a (packExact s k z : Lane p) := by
  obtain ⟨j, w, hj, hw, heq⟩ : ∃ (j : ℕ) (w : ℤ), j < 2 ^ p.sigBits ∧ p.unitExp ≤ w ∧ (k : ℝ) * 2 ^ z = j * 2 ^ w := by
    rcases hz with ⟨hz, hlt⟩ | hmin
    · exact ⟨k, z, hlt, hz, rfl⟩
    · exact exists_fit_of_emin_le hle hmin
  obtain ⟨hs, hfin, hmag⟩ := packExact_spec s hpos hmax hj hw heq
  refine ⟨hs, hfin, by rw [hmag, roundAt, hk], fun heven => ?_⟩
  exact getLsbD_zero_eq_false_of_even hmag (hk ▸ heven) hle (hz.imp_left And.left)

/-- A tiny magnitude is at most `2^FB` units of the denormal grid, the smallest normal value. -/
theorem roundNat_unit_le_of_not_reaches {d : Direction} {a : ℝ} {l : ℤ} (hlo : (2 : ℝ) ^ l ≤ a) (hhi : a < 2 ^ (l + 1))
    (h : ¬ Reaches p d p.emin a) : roundNat d (a / 2 ^ p.unitExp) ≤ 2 ^ p.fb := by
  have hl : l + 1 ≤ p.emin := by
    by_contra hl
    exact h (reaches_of_le hlo (by omega))
  have hunit : (p.fb : ℤ) + p.unitExp = p.emin := by simp [Prec.unitExp]
  have hlt : a / 2 ^ p.unitExp < ((2 ^ p.fb : ℕ) : ℝ) := by
    rw [div_lt_iff₀ (by positivity), two_pow_natCast_mul, hunit]
    exact hhi.trans_le (zpow_le_zpow_right₀ one_le_two hl)
  have hnonneg : 0 ≤ a / 2 ^ p.unitExp := div_nonneg (le_trans (by positivity) hlo) (by positivity)
  have hfl := (Nat.floor_lt hnonneg).2 hlt
  rcases roundNat_cases d hnonneg with hr | ⟨hr, -⟩ <;> omega

/-- The smallest normal value is no overflow. -/
theorem log2At_unit_le_emax {k : ℕ} (hk : 0 < k) (hle : k ≤ 2 ^ p.fb) : log2At k p.unitExp ≤ p.emax := by
  by_contra h
  have hbig := (le_log2At_iff (z := p.unitExp) (e := p.emax + 1) hk).1 (by omega)
  have hsmall := (natCast_mul_zpow_le (a := p.unitExp)).2 hle
  rw [two_pow_natCast_mul, show (p.fb : ℤ) + p.unitExp = p.emin by simp [Prec.unitExp]] at hsmall
  have := (zpow_le_zpow_iff_right₀ (one_lt_two (α := ℝ))).1 (hbig.trans hsmall)
  have hb := bias_pos p
  simp only [Prec.emin, Prec.emax] at this
  omega

section RoundPack

variable {sc : StatusContext} {s : Bool} {m : Exact} (hm : m.Valid)
include hm

theorem compareAt_rnd_ne (z : ℤ) :
    (m.compareAt (rnd sc.roundingMode s m z) z != .eq) = decide (roundAt (sc.direction s) z m.toReal ≠ m.toReal) := by
  rw [Bool.eq_iff_iff, bne_iff_ne, decide_eq_true_eq, compareAt_eq hm, rnd_eq _ _ hm, ne_eq, compare_eq_iff_eq,
    div_eq_iff (by positivity)]
  exact not_congr eq_comm

variable (hpos : 0 < m.toReal)
include hpos

/-- `round_pack` by the value rounded to full precision: it overflows, it is a value of the format, or it is tiny. -/
theorem roundPack_spec :
    let a := m.toReal
    let d := sc.direction s
    let z := m.floorLog2 - (p.fb : ℤ)
    let x1 := decide (roundAt d z a ≠ a)
    (Reaches p d (p.emax + 1) a ∧ roundPack (p := p) sc s m = overflow sc s x1) ∨
    (¬ Reaches p d (p.emax + 1) a ∧ Reaches p d p.emin a ∧
      ∃ v : Lane p, roundPack sc s m = { val := v, flags := flagIf x1 flagP } ∧ HoldsRounded d s z a v) ∨
    (¬ Reaches p d p.emin a ∧ roundPack (p := p) sc s m = underflow sc s m x1) := by
  intro a d z x1
  obtain ⟨hlo, hhi⟩ := floorLog2_bounds hm hpos
  have hulp : m.floorLog2 - (p.sigBits : ℤ) + 1 = z := by rw [sigBits_eq]; push_cast; ring
  obtain ⟨hk1, hk2⟩ := roundNat_ulp_bounds (p := p) (d := d) hlo hhi
  have hk : rnd sc.roundingMode s m z = roundNat d (a / 2 ^ z) := rnd_eq _ _ hm z
  have hkpos : 0 < roundNat d (a / 2 ^ z) := (Nat.two_pow_pos _).trans_le hk1
  have hreach (e : ℤ) : e ≤ log2At (roundNat d (a / 2 ^ z)) z ↔ Reaches p d e a :=
    (le_log2At_iff hkpos).trans (zpow_le_roundAt_iff hlo hhi e)
  have hx1 : (m.compareAt (roundNat d (a / 2 ^ z)) z != .eq) = x1 := hk ▸ compareAt_rnd_ne hm z
  have hcases := roundPack_cases (p := p) sc s m
  simp only [hulp, hx1, hk] at hcases
  rcases hcases with ⟨h, heq⟩ | ⟨h, hmin, heq⟩ | ⟨h, heq⟩
  · exact .inl ⟨(hreach _).1 h, heq⟩
  · have hmin' := (hreach _).1 hmin
    refine .inr (.inl ⟨fun h' => absurd ((hreach _).2 h') (not_le.2 h), hmin', _, heq, ?_⟩)
    exact holdsRounded_packExact s rfl hkpos (by omega) hk2 (.inr ((zpow_le_roundAt_iff hlo hhi _).2 hmin'))
  · exact .inr (.inr ⟨fun h' => absurd ((hreach _).2 h') (not_le.2 h), heq⟩)

/-- A tiny magnitude that is not flushed is rounded to the denormal grid (40_numerics.md R117). -/
theorem underflow_spec (hfuz : sc.fuz = false) (htiny : ¬ Reaches p (sc.direction s) p.emin m.toReal) (x1 : Bool) :
    ∃ v : Lane p, HoldsRounded (sc.direction s) s p.unitExp m.toReal v ∧
      underflow sc s m x1 =
        { val := v
          flags :=
            if sc.underflowMasked then
              flagIf (decide (roundAt (sc.direction s) p.unitExp m.toReal ≠ m.toReal)) (flagU ||| flagP)
            else flagU ||| flagIf x1 flagP } := by
  obtain ⟨hlo, hhi⟩ := floorLog2_bounds hm hpos
  have hx2 : (m.compareAt (rnd sc.roundingMode s m p.unitExp) p.unitExp != .eq) =
      decide (roundAt (sc.direction s) p.unitExp m.toReal ≠ m.toReal) := compareAt_rnd_ne hm _
  have hk : rnd sc.roundingMode s m p.unitExp = roundNat (sc.direction s) (m.toReal / 2 ^ p.unitExp) := rnd_eq _ _ hm _
  have hle := roundNat_unit_le_of_not_reaches (d := sc.direction s) hlo hhi htiny
  have hval : HoldsRounded (sc.direction s) s p.unitExp m.toReal
      (if rnd sc.roundingMode s m p.unitExp = 0 then signedZero s
        else packExact s (rnd sc.roundingMode s m p.unitExp) p.unitExp : Lane p) := by
    rw [hk]
    split
    next h0 => exact holdsRounded_signedZero s h0
    next h0 =>
      have hlt : roundNat (sc.direction s) (m.toReal / 2 ^ p.unitExp) < 2 ^ (p.fb + 1) := by rw [pow_succ]; omega
      have hk0 := Nat.pos_of_ne_zero h0
      exact holdsRounded_packExact s rfl hk0 (log2At_unit_le_emax hk0 hle) hlt.le (.inl ⟨le_rfl, hlt⟩)
  refine ⟨_, hval, ?_⟩
  simp only [underflow, hfuz, hx2]
  rfl

end RoundPack

end Sys2Proof.Machine
end

section
/-! SUPPORT. An exact rational value rounded by `round_pack`: its correctly rounded value and its flags, in the terms of the
statements (40_numerics.md R112, R116, R117). -/

namespace Sys2Proof.Machine

variable {p : Prec}

/-- The five ways an operation answers a lane of exact value `x`: a zero, an overflow, a value of full precision, a tiny
result flushed, and one rounded to the denormal grid. `inexact` is `x1` of R112, `offGrid` is `x2` of R117. -/
inductive Rounded (sc : StatusContext) (x : ℚ) (r : LaneOut p) : Prop
  | zero (s : Bool) (eq_zero : x = 0) (eq : r = quietly (signedZero s))
  | overflow (inexact : Bool) (overflows : Overflows p sc.roundingMode x)
    (not_tiny : ¬ TinyAfterRounding p sc.roundingMode x)
    (rounded : RoundedTo sc.roundingMode r.val (x : ℝ)) (sign_eq : sign r.val = decide (x < 0))
    (inexact_iff : inexact = true ↔ ¬ FitsPrecision p x)
    (flags_eq : r.flags = flagO ||| flagIf (sc.overflowMasked || inexact) flagP)
  | normal (inexact : Bool) (not_overflows : ¬ Overflows p sc.roundingMode x)
    (not_tiny : ¬ TinyAfterRounding p sc.roundingMode x)
    (rounded : RoundedTo sc.roundingMode r.val (x : ℝ)) (sign_eq : sign r.val = decide (x < 0))
    (inexact_iff : inexact = true ↔ ¬ FitsPrecision p x) (valQ_eq_iff : valQ r.val = x ↔ FitsPrecision p x)
    (flags_eq : r.flags = flagIf inexact flagP)
  | flushed (not_overflows : ¬ Overflows p sc.roundingMode x) (tiny : TinyAfterRounding p sc.roundingMode x)
    (fuz : sc.fuz = true) (eq : r = { val := signedZero (decide (x < 0)), flags := flagU ||| flagP })
  | denormal (inexact offGrid : Bool) (not_overflows : ¬ Overflows p sc.roundingMode x)
    (tiny : TinyAfterRounding p sc.roundingMode x) (not_fuz : sc.fuz = false)
    (rounded : RoundedTo sc.roundingMode r.val (x : ℝ)) (sign_eq : sign r.val = decide (x < 0))
    (inexact_iff : inexact = true ↔ ¬ FitsPrecision p x) (offGrid_iff : offGrid = true ↔ ¬ OnDenormalGrid p x)
    (valQ_eq_iff : valQ r.val = x ↔ OnDenormalGrid p x)
    (flags_eq : r.flags =
      if sc.underflowMasked then flagIf offGrid (flagU ||| flagP) else flagU ||| flagIf inexact flagP)

/-- A number by the side of zero it lies on and its magnitude. -/
theorem toward_abs_cast (x : ℚ) : toward (decide (x < 0)) ((|x| : ℚ) : ℝ) = (x : ℝ) := by
  have h := toward_abs ((x : ℚ) : ℝ)
  rwa [← Rat.cast_abs, decide_eq_decide.2 Rat.cast_lt_zero] at h

theorem reaches_emin_of_reaches_emax {d : Direction} {a : ℝ} {l : ℤ} (hlo : (2 : ℝ) ^ l ≤ a) (hhi : a < 2 ^ (l + 1))
    (h : Reaches p d (p.emax + 1) a) : Reaches p d p.emin a := by
  rw [← zpow_le_roundAt_iff hlo hhi] at h ⊢
  refine le_trans (zpow_le_zpow_right₀ one_le_two ?_) h
  simp only [Prec.emin, Prec.emax]
  omega

/-- What overflows a mode other than nearest-even lies beyond the largest finite value. -/
theorem maxQ_lt_of_reaches {d : Direction} {a : ℝ} (h : Reaches p d (p.emax + 1) a) (hd : d ≠ .nearest) :
    ((maxQ p : ℚ) : ℝ) < a := by
  rw [maxQ_cast]
  cases d with
  | nearest => exact absurd rfl hd
  | up => exact h
  | down => exact (sub_lt_self _ (by positivity)).trans_le h

theorem direction_ne_nearest {rm : RoundingMode} {s : Bool} (h : rm ≠ .rn) : rm.direction s ≠ .nearest := by
  cases rm <;> cases s <;> simp_all [RoundingMode.direction]

theorem lt_overflowThreshold_of_not_reaches {a : ℝ} (h : ¬ Reaches p .nearest (p.emax + 1) a) :
    a < (overflowThreshold p : ℝ) := by
  rw [overflowThreshold_cast]
  exact not_le.1 h

theorem overflowThreshold_le_of_reaches {a : ℝ} (h : Reaches p .nearest (p.emax + 1) a) :
    (overflowThreshold p : ℝ) ≤ a := by
  rw [overflowThreshold_cast]
  exact h

theorem sign_overflow (rm : RoundingMode) (s : Bool) :
    sign (if overflowsToInfinity rm s then infinity s else maxFinite s : Lane p) = s := by
  split
  · exact sign_infinity s
  · exact sign_maxFinite s

/-- A lane that holds a number rounded to a grid with no finite lane in its gap holds the correctly rounded number. -/
theorem HoldsRounded.roundedTo {rm : RoundingMode} {x : ℚ} {z : ℤ} {v : Lane p}
    (h : HoldsRounded (rm.direction (decide (x < 0))) (decide (x < 0)) z ((|x| : ℚ) : ℝ) v)
    (hgap : z = p.unitExp ∨ 2 ^ p.fb ≤ ⌊((|x| : ℚ) : ℝ) / 2 ^ z⌋₊) (ho : ¬ Overflows p rm x) :
    RoundedTo rm v (x : ℝ) := by
  rw [overflows_iff] at ho
  refine roundedTo_of_roundAt (by positivity) (toward_abs_cast x) hgap h.finite h.sign_eq h.magR_eq h.even_of_even ?_
  rintro rfl
  exact lt_overflowThreshold_of_not_reaches ho

/-- `round_pack` of the magnitude of a number other than 0, on its side of zero, rounds the number. -/
theorem rounded_roundPack (sc : StatusContext) {x : ℚ} {m : Exact} (hx : x ≠ 0) (hm : m.Valid)
    (habs : m.toReal = ((|x| : ℚ) : ℝ)) : Rounded sc x (roundPack sc (decide (x < 0)) m : LaneOut p) := by
  have hpos : 0 < m.toReal := by
    rw [habs]
    exact_mod_cast abs_pos.2 hx
  obtain ⟨hlo, hhi⟩ := floorLog2_bounds hm hpos
  have hdir : sc.direction (decide (x < 0)) = sc.roundingMode.direction (decide (x < 0)) := rfl
  have hfit : decide (roundAt (sc.direction (decide (x < 0))) (m.floorLog2 - p.fb) m.toReal ≠ m.toReal) = true ↔
      ¬ FitsPrecision p x := by
    rw [habs] at hlo hhi ⊢
    rw [decide_eq_true_eq, ne_eq, roundAt_eq_iff_fitsPrecision hlo hhi]
  have hgrid : decide (roundAt (sc.direction (decide (x < 0))) p.unitExp m.toReal ≠ m.toReal) = true ↔
      ¬ OnDenormalGrid p x := by
    rw [habs, decide_eq_true_eq, ne_eq, roundAt_eq_iff_onDenormalGrid]
  have hover : Overflows p sc.roundingMode x ↔ Reaches p (sc.direction (decide (x < 0))) (p.emax + 1) m.toReal := by
    rw [habs, overflows_iff, hdir]
  have htiny : TinyAfterRounding p sc.roundingMode x ↔ ¬ Reaches p (sc.direction (decide (x < 0))) p.emin m.toReal := by
    rw [habs, tinyAfterRounding_iff, hdir]
    exact and_iff_right hx
  rcases roundPack_spec (p := p) (sc := sc) (s := decide (x < 0)) hm hpos with
    ⟨ho, hr⟩ | ⟨ho, hmin, v, hr, hv⟩ | ⟨hmin, hr⟩
  · have hmin := reaches_emin_of_reaches_emax hlo hhi ho
    refine .overflow _ (hover.2 ho) (fun h => htiny.1 h hmin) ?_ (by rw [hr]; exact sign_overflow _ _) hfit
      (by rw [hr]; rfl)
    rw [hr]
    refine roundedTo_overflow hpos (habs ▸ toward_abs_cast x) (fun hrm => ?_) fun hrm => ?_
    · rw [hdir, hrm] at ho
      exact overflowThreshold_le_of_reaches ho
    · exact maxQ_lt_of_reaches ho (direction_ne_nearest hrm)
  · have hgap := le_floor_div_ulp (p := p) hlo hhi
    rw [habs] at hv hgap
    have ho' := mt hover.1 ho
    rw [hr]
    refine .normal _ ho' (fun h => htiny.1 h hmin) (hv.roundedTo (.inr hgap) ho') hv.sign_eq hfit ?_ rfl
    rw [hv.valQ_eq_iff, ← not_iff_not, ← hfit, habs, decide_eq_true_eq]
  · have ho' : ¬ Overflows p sc.roundingMode x := fun h =>
      hmin (reaches_emin_of_reaches_emax hlo hhi (hover.1 h))
    cases hfuz : sc.fuz with
    | true =>
      refine .flushed ho' (htiny.2 hmin) hfuz ?_
      rw [hr, underflow, hfuz]
      rfl
    | false =>
      obtain ⟨v, hv, hu⟩ := underflow_spec hm hpos hfuz hmin
        (decide (roundAt (sc.direction (decide (x < 0))) (m.floorLog2 - p.fb) m.toReal ≠ m.toReal))
      rw [habs] at hv
      rw [hr, hu]
      refine .denormal _ _ ho' (htiny.2 hmin) hfuz (hv.roundedTo (.inl rfl) ho') hv.sign_eq hfit hgrid ?_ rfl
      rw [hv.valQ_eq_iff, roundAt_eq_iff_onDenormalGrid]

/-! ### What the five ways have in common -/

namespace Rounded

variable {sc : StatusContext} {x : ℚ} {r : LaneOut p}

theorem roundedTo_zero (rm : RoundingMode) (s : Bool) : RoundedTo rm (signedZero s : Lane p) ((0 : ℚ) : ℝ) := by
  have hfin : isFinite (signedZero s : Lane p) = true := isFinite_of_expf_eq_zero (expf_signedZero s)
  have hval : valQ (signedZero s : Lane p) = 0 := by
    rw [valQ_eq_valUnits, valUnits, magUnits_signedZero]
    cases s <;> simp [signed]
  have hthr : (0 : ℝ) < (overflowThreshold p : ℝ) := by
    rw [overflowThreshold_cast, sub_pos]
    exact zpow_lt_zpow_right₀ one_lt_two (by rw [sigBits_eq]; push_cast; omega)
  cases rm with
  | rn =>
    refine ⟨fun _ => ⟨hfin, fun y _ => ?_, fun y _ hne h => ?_⟩, fun h => ?_⟩
    · simp [hval]
    · simp [hval] at h hne
      exact absurd h hne
    · simp only [Rat.cast_zero, abs_zero] at h
      exact absurd hthr (not_lt.2 h)
  | rd => exact .inr ⟨hfin, by rw [hval], fun y _ h => by rw [hval]; exact_mod_cast h⟩
  | ru => exact .inr ⟨hfin, by rw [hval], fun y _ h => by rw [hval]; exact_mod_cast h⟩
  | rz =>
    refine ⟨hfin, by simp [hval], by simp, fun y _ h => ?_⟩
    rw [hval, abs_zero]
    rw [Rat.cast_zero, abs_zero] at h
    exact_mod_cast h

/-- The lane is correctly rounded, with its sign, wherever it is not flushed. -/
theorem roundedTo (h : Rounded sc x r) (hflush : sc.fuz = false ∨ ¬ TinyAfterRounding p sc.roundingMode x) :
    RoundedTo sc.roundingMode r.val (x : ℝ) ∧ (x ≠ 0 → sign r.val = decide (x < 0)) := by
  cases h with
  | zero s hx hr =>
    subst hx hr
    exact ⟨roundedTo_zero _ s, fun h => absurd rfl h⟩
  | overflow _ _ _ hround hsign => exact ⟨hround, fun _ => hsign⟩
  | normal _ _ _ hround hsign => exact ⟨hround, fun _ => hsign⟩
  | flushed _ htiny hfuz => exact absurd hflush (by simp [hfuz, htiny])
  | denormal _ _ _ _ _ hround hsign => exact ⟨hround, fun _ => hsign⟩

end Rounded

end Sys2Proof.Machine
end

section
/-! SUPPORT. The exact value that ADD, SUB, MUL, DIV, the four fused operations and SCALEF round for finite operands: what
each lane function hands to `round_pack` is that value (41_arith.md R141 to R144, 42_fma.md R160,
48_round_reduce_scalef.md R266, R267). -/

namespace Sys2Proof.Machine

variable {p : Prec} {op : Op}

/-! ### Values of lanes as rationals -/

theorem magUnits_eq_zero_iff (v : Lane p) : magUnits v = 0 ↔ isZero v = true := by
  by_cases h : expf v = 0
  · simp [magUnits_of_expf_eq_zero h, isZero, h]
  · simp [magUnits_of_expf_ne_zero h, isZero, h]

theorem valQ_eq_zero_iff (v : Lane p) : valQ v = 0 ↔ isZero v = true := by
  rw [valQ, magQ_eq_magUnits, ← magUnits_eq_zero_iff]
  split <;> simp [zpow_ne_zero]

theorem magQ_nonneg (v : Lane p) : 0 ≤ magQ v := by
  rw [magQ_eq_magUnits]
  positivity

theorem abs_valQ (v : Lane p) : |valQ v| = magQ v := by
  rw [valQ]
  split
  · rw [abs_neg, abs_of_nonneg (magQ_nonneg v)]
  · rw [abs_of_nonneg (magQ_nonneg v)]

/-- The factor of a sign bit. -/
def signQ (s : Bool) : ℚ := if s then -1 else 1

theorem signQ_mul (s : Bool) (q : ℚ) : signQ s * q = if s then -q else q := by cases s <;> simp [signQ]

theorem signQ_xor (s t : Bool) : signQ (s ^^ t) = signQ s * signQ t := by cases s <;> cases t <;> simp [signQ]

theorem signQ_inv (s : Bool) : (signQ s)⁻¹ = signQ s := by cases s <;> simp [signQ]

theorem valQ_eq_signQ_mul (v : Lane p) : valQ v = signQ (sign v) * magQ v := by rw [signQ_mul, valQ]

theorem signed_cast (s : Bool) (n : ℕ) : ((signed s n : ℤ) : ℚ) = signQ s * n := by
  rw [signQ_mul, signed]
  split <;> simp

/-- A sign and a positive magnitude. -/
theorem signQ_mul_pos {q : ℚ} (hq : 0 < q) (s : Bool) :
    signQ s * q ≠ 0 ∧ decide (signQ s * q < 0) = s ∧ |signQ s * q| = q := by
  cases s <;> simp [signQ, hq, hq.ne', hq.not_gt, abs_of_pos]

@[simp] theorem valQ_negLane (v : Lane p) : valQ (negLane v) = -valQ v := by
  have hmag : magQ (negLane v) = magQ v := by rw [magQ_eq_magUnits, magQ_eq_magUnits, magUnits_negLane]
  unfold valQ
  rw [sign_negLane, hmag]
  cases sign v <;> simp

/-! ### Sums -/

theorem toReal_quot_one (n : ℕ) (z : ℤ) : (Exact.quot n 1 z).toReal = n * 2 ^ z := by
  rw [Exact.toReal, Nat.cast_one, div_one]

theorem rounded_roundSum (sc : StatusContext) {x : ℚ} {m z : ℤ} (hx : x = (m : ℚ) * 2 ^ z) (sx sy : Bool) :
    Rounded sc x (roundSum sc m z sx sy : LaneOut p) := by
  have hz : (0 : ℚ) < 2 ^ z := by positivity
  unfold roundSum
  split
  next h => exact .zero _ (by rw [hx, h, Int.cast_zero, zero_mul]) rfl
  next h =>
    have hne : x ≠ 0 := by
      rw [hx]
      exact mul_ne_zero (by exact_mod_cast h) hz.ne'
    have hneg : decide (m < 0) = decide (x < 0) := by
      rw [decide_eq_decide, hx, mul_neg_iff]
      simp [hz, hz.not_gt]
    rw [hneg]
    refine rounded_roundPack sc hne Nat.one_pos ?_
    rw [toReal_quot_one, hx, abs_mul, abs_of_pos hz]
    push_cast
    rw [Nat.cast_natAbs, Int.cast_abs]

theorem denormalFlag_pair (a b : Lane p) : denormalFlag [a, b] = flagIf (isDenorm a || isDenorm b) flagD := by
  simp [denormalFlag]

theorem denormalFlag_triple (a b c : Lane p) :
    denormalFlag [a, b, c] = flagIf (isDenorm a || isDenorm b || isDenorm c) flagD := by
  simp [denormalFlag, Bool.or_assoc]

theorem addCore_of_isFinite (sc : StatusContext) {a b : Lane p} (ha : isFinite a = true) (hb : isFinite b = true) :
    addCore sc a b =
      (roundSum sc (valUnits a + valUnits b) p.unitExp (sign a) (sign b)).raise (denormalFlag [a, b]) := by
  rw [denormalFlag_pair]
  simp [addCore, isInf_eq_false_of_isFinite ha, isInf_eq_false_of_isFinite hb]

/-- The exact value of a fused operation (42_fma.md R160 to R164). -/
theorem exactValue_of_isFma (hop : isFma op) (a b c : ℚ) :
    exactValue op a b c =
      some (signQ (negatesProduct op) * (a * b) + signQ (negatesAddend op) * c) := by
  rcases hop with rfl | rfl | rfl | rfl <;> simp [exactValue, signQ, negatesProduct, negatesAddend, sub_eq_add_neg]

theorem operandList_of_isFma (hop : isFma op) (a b c : Lane p) : operandList op a b c = [a, b, c] := by
  rcases hop with rfl | rfl | rfl | rfl <;> rfl

/-- Product and addend of a fused operation in units of `2^(2 * (EMIN - FB))`. -/
def fmaUnits (a b c : Lane p) (np nc : Bool) : ℤ :=
  signed (sign a ^^ sign b ^^ np) (magUnits a * magUnits b) +
    signed (sign c ^^ nc) (magUnits c * 2 ^ (-p.unitExp).toNat)

theorem unitExp_neg (p : Prec) : p.unitExp < 0 := by cases p <;> decide

theorem fmaUnits_cast (a b c : Lane p) (np nc : Bool) :
    signQ np * (valQ a * valQ b) + signQ nc * valQ c = (fmaUnits a b c np nc : ℚ) * 2 ^ (2 * p.unitExp) := by
  have hu := unitExp_neg p
  have htwo : (2 : ℚ) ^ (2 * p.unitExp) = 2 ^ p.unitExp * 2 ^ p.unitExp := by rw [two_mul, zpow_add₀ two_ne_zero]
  have hone : (2 : ℚ) ^ (-p.unitExp).toNat * 2 ^ p.unitExp = 1 := by
    rw [← zpow_natCast, ← zpow_add₀ two_ne_zero, Int.toNat_of_nonneg (by omega), neg_add_cancel, zpow_zero]
  simp only [valQ_eq_signQ_mul, magQ_eq_magUnits, fmaUnits, Int.cast_add, signed_cast, signQ_xor, htwo]
  push_cast
  linear_combination (-signQ nc * signQ (sign c) * magUnits c * 2 ^ p.unitExp) * hone

theorem fmaCore_of_isFinite (sc : StatusContext) {a b c : Lane p} (np nc : Bool) (ha : isFinite (daz sc a) = true)
    (hb : isFinite (daz sc b) = true) (hc : isFinite (daz sc c) = true) :
    fmaCore sc a b c np nc =
      (roundSum sc (fmaUnits (daz sc a) (daz sc b) (daz sc c) np nc) (2 * p.unitExp)
        (sign (daz sc a) ^^ sign (daz sc b) ^^ np) (sign (daz sc c) ^^ nc)).raise
        (denormalFlag [daz sc a, daz sc b, daz sc c]) := by
  have hna := isNaN_eq_false_of_isFinite ha
  have hnb := isNaN_eq_false_of_isFinite hb
  have hnc := isNaN_eq_false_of_isFinite hc
  have hia := isInf_eq_false_of_isFinite ha
  have hib := isInf_eq_false_of_isFinite hb
  have hic := isInf_eq_false_of_isFinite hc
  rw [denormalFlag_triple]
  simp only [fmaCore, fmaUnits, hna, hnb, hnc, hia, hib, hic, Bool.or_self, Bool.false_and, Bool.and_false,
    Bool.false_eq_true, if_false]

/-- ADD, SUB and the fused operations round a sum of two terms, whose signs decide that of an exact zero. -/
theorem laneOp_sum (sc : StatusContext) (imm8 : BitVec 8) (args : LaneArgs p) {x : ℚ}
    (hop : op = .add ∨ op = .sub ∨ isFma op)
    (hfin : ∀ v ∈ operandList op (daz sc args.a) (daz sc args.b) (daz sc args.c), isFinite v = true)
    (hx : exactValue op (valQ (daz sc args.a)) (valQ (daz sc args.b)) (valQ (daz sc args.c)) = some x) :
    ∃ m z : ℤ, x = (m : ℚ) * 2 ^ z ∧
      laneOp op sc imm8 args = .ofValue
        ((roundSum sc m z (termSigns op (daz sc args.a) (daz sc args.b) (daz sc args.c)).1
          (termSigns op (daz sc args.a) (daz sc args.b) (daz sc args.c)).2).raise
          (denormalFlag (operandList op (daz sc args.a) (daz sc args.b) (daz sc args.c)))) := by
  obtain ⟨ha, hb, hc⟩ := forall_mem_operandList.1 hfin
  have hna := isNaN_eq_false_of_isFinite ha
  rw [isNaN_daz] at hna
  rcases hop with rfl | rfl | hfma
  · have hnb := isNaN_eq_false_of_isFinite (hb rfl)
    rw [isNaN_daz] at hnb
    refine ⟨valUnits (daz sc args.a) + valUnits (daz sc args.b), p.unitExp, ?_, ?_⟩
    · rw [← Option.some_inj.1 hx, valQ_eq_valUnits, valQ_eq_valUnits]
      push_cast
      ring
    · exact congrArg LaneResult.ofValue ((add_of_not_isNaN sc hna hnb).trans (addCore_of_isFinite sc ha (hb rfl)))
  · have hnb := isNaN_eq_false_of_isFinite (hb rfl)
    rw [isNaN_daz] at hnb
    have hb' : isFinite (negLane (daz sc args.b)) = true := by rw [isFinite_negLane, hb rfl]
    refine ⟨valUnits (daz sc args.a) + valUnits (negLane (daz sc args.b)), p.unitExp, ?_, ?_⟩
    · rw [← Option.some_inj.1 hx, Int.cast_add, add_mul, ← valQ_eq_valUnits, ← valQ_eq_valUnits, valQ_negLane,
        sub_eq_add_neg]
    · have hcore := addCore_of_isFinite sc ha hb'
      rw [sign_negLane, denormalFlag_pair, isDenorm_negLane, ← denormalFlag_pair] at hcore
      exact congrArg LaneResult.ofValue ((sub_of_not_isNaN sc hna hnb).trans hcore)
  · have hreads : op.readsB = true ∧ op.readsC = true := by rcases hfma with rfl | rfl | rfl | rfl <;> decide
    refine ⟨fmaUnits (daz sc args.a) (daz sc args.b) (daz sc args.c) (negatesProduct op) (negatesAddend op),
      2 * p.unitExp, ?_, ?_⟩
    · rw [exactValue_of_isFma hfma] at hx
      rw [← Option.some_inj.1 hx, fmaUnits_cast]
    · rw [laneOp_of_isFma hfma, termSigns_of_isFma hfma, operandList_of_isFma hfma,
        fmaCore_of_isFinite sc _ _ ha (hb hreads.1) (hc hreads.2)]

end Sys2Proof.Machine
end

section
/-! SUPPORT. Products, quotients and scalings of finite operands, and all nine rounded operations as one: each rounds
its exact value and adds `D` for a denormal operand (41_arith.md R143, R144; 48_round_reduce_scalef.md R266, R267). -/

namespace Sys2Proof.Machine

variable {p : Prec} {op : Op} {form : Form} {f : Fields} {s : State} {n : Nat}

theorem magQ_pos {v : Lane p} (h : isZero v = false) : 0 < magQ v := by
  rw [← abs_valQ, abs_pos, ne_eq, valQ_eq_zero_iff, h]
  decide

/-! ### Products and quotients -/

/-- A positive magnitude with a sign, rounded. -/
theorem rounded_roundPack_signQ (sc : StatusContext) {m : Exact} {q : ℚ} (s : Bool) (hq : 0 < q) (hm : m.Valid)
    (hmq : m.toReal = (q : ℝ)) : Rounded sc (signQ s * q) (roundPack sc s m : LaneOut p) := by
  obtain ⟨hne, hs, habs⟩ := signQ_mul_pos hq s
  have h := rounded_roundPack (p := p) sc hne hm (by rw [habs, hmq])
  rwa [hs] at h

theorem mul_of_isFinite (sc : StatusContext) {a b : Lane p} (ha : isFinite (daz sc a) = true)
    (hb : isFinite (daz sc b) = true) :
    ∃ r : LaneOut p, Rounded sc (valQ (daz sc a) * valQ (daz sc b)) r ∧
      mul sc a b = r.raise (denormalFlag [daz sc a, daz sc b]) := by
  have hna := isNaN_eq_false_of_isFinite ha
  have hnb := isNaN_eq_false_of_isFinite hb
  have hia := isInf_eq_false_of_isFinite ha
  have hib := isInf_eq_false_of_isFinite hb
  refine ⟨_, ?_, by
    simp only [mul, hna, hnb, hia, hib, Bool.or_self, Bool.false_and, Bool.and_false, Bool.false_eq_true, if_false,
      denormalFlag_pair]
    rfl⟩
  generalize daz sc a = a, daz sc b = b
  split
  next hz =>
    refine .zero _ ?_ rfl
    rw [mul_eq_zero, valQ_eq_zero_iff, valQ_eq_zero_iff]
    simpa using hz
  next hz =>
    rw [Bool.or_eq_true, not_or, Bool.not_eq_true, Bool.not_eq_true] at hz
    obtain ⟨hza, hzb⟩ := hz
    have hval : valQ a * valQ b = signQ (sign a ^^ sign b) * (magQ a * magQ b) := by
      rw [valQ_eq_signQ_mul, valQ_eq_signQ_mul, signQ_xor]
      ring
    rw [hval]
    refine rounded_roundPack_signQ sc _ (mul_pos (magQ_pos hza) (magQ_pos hzb)) Nat.one_pos ?_
    rw [toReal_quot_one, magQ_eq_magUnits, magQ_eq_magUnits, two_mul, zpow_add₀ two_ne_zero]
    push_cast
    ring

theorem div_of_isFinite (sc : StatusContext) {a b : Lane p} (ha : isFinite (daz sc a) = true)
    (hb : isFinite (daz sc b) = true) (hzb : isZero (daz sc b) = false) :
    ∃ r : LaneOut p, Rounded sc (valQ (daz sc a) / valQ (daz sc b)) r ∧
      div sc a b = r.raise (denormalFlag [daz sc a, daz sc b]) := by
  have hna := isNaN_eq_false_of_isFinite ha
  have hnb := isNaN_eq_false_of_isFinite hb
  have hia := isInf_eq_false_of_isFinite ha
  have hib := isInf_eq_false_of_isFinite hb
  refine ⟨_, ?_, by
    simp only [div, hna, hnb, hia, hib, hzb, Bool.or_self, Bool.and_false, Bool.false_eq_true, if_false,
      denormalFlag_pair]
    rfl⟩
  generalize daz sc a = a, daz sc b = b at *
  split
  next hz => exact .zero _ (by rw [(valQ_eq_zero_iff a).2 hz, zero_div]) rfl
  next hz =>
    have hval : valQ a / valQ b = signQ (sign a ^^ sign b) * (magQ a / magQ b) := by
      rw [valQ_eq_signQ_mul, valQ_eq_signQ_mul, signQ_xor, mul_div_mul_comm, div_eq_mul_inv (signQ _), signQ_inv]
    have hmb : 0 < magUnits b := Nat.pos_of_ne_zero (by rw [ne_eq, magUnits_eq_zero_iff, hzb]; decide)
    rw [hval]
    refine rounded_roundPack_signQ sc _ (div_pos (magQ_pos (Bool.eq_false_of_not_eq_true hz)) (magQ_pos hzb)) hmb ?_
    rw [Exact.toReal, magQ_eq_magUnits, magQ_eq_magUnits, zpow_zero, mul_one,
      mul_div_mul_right _ _ (by positivity : (2 : ℚ) ^ p.unitExp ≠ 0)]
    push_cast
    rfl

/-! ### Scaling by a power of two, its exponent clamped (48_round_reduce_scalef.md R267, log entry 14) -/

theorem floorVal_eq_floor (b : Lane p) : floorVal b = ⌊valQ b⌋ := by
  have hu := unitExp_neg p
  have hpow : (2 : ℚ) ^ p.unitExp = ((2 ^ (-p.unitExp).toNat : ℕ) : ℚ)⁻¹ := by
    push_cast
    rw [← zpow_natCast, Int.toNat_of_nonneg (by omega), zpow_neg, inv_inv]
  rw [floorVal, valQ_eq_valUnits, hpow, ← div_eq_mul_inv, Rat.floor_intCast_div_natCast]
  push_cast
  rfl

/-- What rounding makes of less than half a unit. -/
def minuteUnits : Direction → ℕ
  | .up => 1
  | .down | .nearest => 0

theorem roundNat_of_lt_half (d : Direction) {y : ℝ} (hpos : 0 < y) (h : y < 1 / 2) : roundNat d y = minuteUnits d := by
  have hfl : ⌊y⌋₊ = 0 := Nat.floor_eq_zero.2 (by linarith)
  cases d with
  | down => exact hfl
  | up => exact (natCeil_eq_of_ne hpos.le (by rw [hfl, Nat.cast_zero]; exact hpos.ne')).trans (by rw [hfl]; rfl)
  | nearest => simp only [roundNat, hfl, Nat.cast_zero, zero_add, if_pos h, minuteUnits]

section Clamp

variable {sc : StatusContext} {s : Bool} {x : ℚ} {m : Exact} (hm : m.Valid) (hfit : FitsPrecision p x)
  (habs : m.toReal = ((|x| : ℚ) : ℝ)) (hpos : 0 < m.toReal)
include hm hfit habs hpos

/-- Rounding a magnitude of at most `p` bits to full precision is exact. -/
theorem roundAt_floorLog2_of_fitsPrecision (d : Direction) :
    roundAt d (m.floorLog2 - (p.fb : ℤ)) m.toReal = m.toReal := by
  obtain ⟨hlo, hhi⟩ := floorLog2_bounds hm hpos
  rw [habs] at hlo hhi ⊢
  exact (roundAt_eq_iff_fitsPrecision hlo hhi).2 hfit

/-- A magnitude of at most `p` bits beyond every threshold overflows exactly. -/
theorem roundPack_of_huge (h : (2 : ℝ) ^ (p.emax + 1) ≤ m.toReal) :
    (roundPack sc s m : LaneOut p) = overflow sc s false := by
  obtain ⟨hlo, hhi⟩ := floorLog2_bounds hm hpos
  have hl : p.emax + 1 ≤ m.floorLog2 := by
    have := (zpow_lt_zpow_iff_right₀ (one_lt_two (α := ℝ))).1 (h.trans_lt hhi)
    omega
  have hreach : Reaches p (sc.direction s) (p.emax + 1) m.toReal := reaches_of_le hlo hl
  have hexact := roundAt_floorLog2_of_fitsPrecision hm hfit habs hpos (sc.direction s)
  rcases roundPack_spec (p := p) (sc := sc) (s := s) hm hpos with ⟨-, hr⟩ | ⟨ho, -⟩ | ⟨hmin, -⟩
  · rw [hr, hexact, decide_eq_false (not_not.2 rfl)]
  · exact absurd hreach ho
  · exact absurd (reaches_emin_of_reaches_emax hlo hhi hreach) hmin

/-- A magnitude of at most `p` bits below half of the smallest denormal underflows, and no more of it is seen. -/
theorem roundPack_of_minute (h : m.toReal < (2 : ℝ) ^ (p.unitExp - 1)) :
    (roundPack sc s m : LaneOut p) =
      if sc.fuz then { val := signedZero s, flags := flagU ||| flagP }
      else
        { val :=
            if minuteUnits (sc.direction s) = 0 then signedZero s
            else packExact s (minuteUnits (sc.direction s)) p.unitExp
          flags := if sc.underflowMasked then flagU ||| flagP else flagU } := by
  obtain ⟨hlo, hhi⟩ := floorLog2_bounds hm hpos
  have hunit : p.unitExp ≤ p.emin := by simp [Prec.unitExp]
  have hl : m.floorLog2 + 1 < p.emin := by
    have := (zpow_lt_zpow_iff_right₀ (one_lt_two (α := ℝ))).1 (hlo.trans_lt h)
    omega
  have hmin : ¬ Reaches p (sc.direction s) p.emin m.toReal := not_reaches_of_lt hhi hl
  have hexact := roundAt_floorLog2_of_fitsPrecision hm hfit habs hpos (sc.direction s)
  have hhalf : m.toReal / 2 ^ p.unitExp < 1 / 2 := by
    rw [div_lt_iff₀ (by positivity)]
    rw [zpow_sub_one₀ two_ne_zero] at h
    linarith
  have hunits := roundNat_of_lt_half (sc.direction s) (by positivity : 0 < m.toReal / 2 ^ p.unitExp) hhalf
  have hrnd : rnd sc.roundingMode s m p.unitExp = minuteUnits (sc.direction s) := (rnd_eq _ _ hm _).trans hunits
  have hoff : m.compareAt (minuteUnits (sc.direction s)) p.unitExp ≠ .eq := by
    rw [compareAt_eq hm, ne_eq, compare_eq_iff_eq]
    intro heq
    have hy : 0 < m.toReal / 2 ^ p.unitExp := by positivity
    generalize sc.direction s = d at heq
    cases d with
    | up =>
      rw [minuteUnits, Nat.cast_one] at heq
      linarith
    | down | nearest =>
      rw [minuteUnits, Nat.cast_zero] at heq
      exact hy.ne' heq
  rcases roundPack_spec (p := p) (sc := sc) (s := s) hm hpos with ⟨ho, -⟩ | ⟨-, hmin', -⟩ | ⟨-, hr⟩
  · exact absurd (reaches_emin_of_reaches_emax hlo hhi ho) hmin
  · exact absurd hmin' hmin
  · rw [hr, hexact, decide_eq_false (not_not.2 rfl), underflow]
    simp only [hrnd, bne_iff_ne.2 hoff, flagIf_true, flagIf_false, BitVec.or_zero]

end Clamp

/-! The scaled magnitude of a finite lane. -/

section Scaled

variable (sc : StatusContext) (s : Bool) {a : Lane p}

theorem fitsPrecision_scaled (a : Lane p) (e : ℤ) : FitsPrecision p ((magUnits a : ℚ) * 2 ^ e) := by
  obtain ⟨j, i, hj, ha⟩ := magUnits_eq_mul_two_pow a
  refine ⟨j, i + e, ?_, ?_⟩
  · rw [Nat.abs_cast]
    exact_mod_cast hj
  · rw [ha, zpow_add₀ two_ne_zero, zpow_natCast]
    push_cast
    ring

theorem valid_quot_one (n : ℕ) (z : ℤ) : (Exact.quot n 1 z).Valid := Nat.one_pos

theorem toReal_scaled (a : Lane p) (e : ℤ) :
    (Exact.quot (magUnits a) 1 e).toReal = ((|(magUnits a : ℚ) * 2 ^ e| : ℚ) : ℝ) := by
  rw [toReal_quot_one, abs_of_nonneg (by positivity)]
  push_cast
  rfl

theorem zpow_le_toReal_scaled (hz : isZero a = false) (e : ℤ) : (2 : ℝ) ^ e ≤ (Exact.quot (magUnits a) 1 e).toReal := by
  have hpos : 1 ≤ magUnits a := Nat.one_le_iff_ne_zero.2 (by rw [ne_eq, magUnits_eq_zero_iff, hz]; decide)
  rw [toReal_quot_one]
  exact le_mul_of_one_le_left (by positivity) (by exact_mod_cast hpos)

theorem toReal_scaled_lt_zpow (ha : isFinite a = true) (e : ℤ) :
    (Exact.quot (magUnits a) 1 (p.unitExp + e)).toReal < 2 ^ (p.emax + 1 + e) := by
  rw [toReal_quot_one, zpow_add₀ two_ne_zero, zpow_add₀ two_ne_zero _ e, ← mul_assoc]
  exact mul_lt_mul_of_pos_right (magR_lt_zpow ha) (by positivity)

theorem roundPack_scaled_huge (hz : isZero a = false) {n : ℤ} (hn : 5000 ≤ n) :
    (roundPack sc s (.quot (magUnits a) 1 (p.unitExp + n)) : LaneOut p) = overflow sc s false := by
  have hle := zpow_le_toReal_scaled hz (p.unitExp + n)
  have he : p.emax + 1 ≤ p.unitExp + n := by
    have : p.emax + 1 ≤ p.unitExp + 5000 := by cases p <;> decide
    omega
  exact roundPack_of_huge (valid_quot_one _ _) (fitsPrecision_scaled a _) (toReal_scaled a _)
    (lt_of_lt_of_le (by positivity) hle) ((zpow_le_zpow_right₀ one_le_two he).trans hle)

theorem toReal_scaled_minute (ha : isFinite a = true) {n : ℤ} (hn : n ≤ -5000) :
    (Exact.quot (magUnits a) 1 (p.unitExp + n)).toReal < 2 ^ (p.unitExp - 1) := by
  have he : p.emax + 1 + n ≤ p.unitExp - 1 := by
    have : p.emax + 1 + -5000 ≤ p.unitExp - 1 := by cases p <;> decide
    omega
  exact (toReal_scaled_lt_zpow ha n).trans_le (zpow_le_zpow_right₀ one_le_two he)

/-- Clamping the exponent changes neither the answer nor a flag: both magnitudes lie beyond every threshold, or both below
half of the smallest denormal. -/
theorem roundPack_clampExponent (ha : isFinite a = true) (hz : isZero a = false) (n : ℤ) :
    (roundPack sc s (.quot (magUnits a) 1 (p.unitExp + clampExponent n)) : LaneOut p) =
      roundPack sc s (.quot (magUnits a) 1 (p.unitExp + n)) := by
  unfold clampExponent
  split
  next h =>
    have hpos (e : ℤ) : 0 < (Exact.quot (magUnits a) 1 (p.unitExp + e)).toReal :=
      lt_of_lt_of_le (by positivity) (zpow_le_toReal_scaled hz _)
    have hminute {e : ℤ} (he : e ≤ -5000) := roundPack_of_minute (sc := sc) (s := s) (valid_quot_one _ _)
      (fitsPrecision_scaled a _) (toReal_scaled a _) (hpos e) (toReal_scaled_minute ha he)
    rw [hminute le_rfl, hminute h.le]
  next =>
    split
    next h => rw [roundPack_scaled_huge sc s hz le_rfl, roundPack_scaled_huge sc s hz h.le]
    next => rfl

end Scaled

theorem scalef_of_isFinite (sc : StatusContext) {a b : Lane p} (ha : isFinite (daz sc a) = true)
    (hb : isFinite (daz sc b) = true) :
    ∃ r : LaneOut p, Rounded sc (valQ (daz sc a) * 2 ^ ⌊valQ (daz sc b)⌋) r ∧
      scalef sc a b = r.raise (denormalFlag [daz sc a, daz sc b]) := by
  have hna := isNaN_eq_false_of_isFinite ha
  have hnb := isNaN_eq_false_of_isFinite hb
  have hia := isInf_eq_false_of_isFinite ha
  have hib := isInf_eq_false_of_isFinite hb
  refine ⟨_, ?_, by
    simp only [scalef, hna, hnb, hia, hib, Bool.or_self, Bool.false_or, Bool.false_and, Bool.false_eq_true, if_false,
      denormalFlag_pair]
    rfl⟩
  generalize daz sc a = a, daz sc b = b at *
  split
  next hz => exact .zero (sign a) (by rw [(valQ_eq_zero_iff a).2 hz, zero_mul]) (by rw [← (isZero_iff a).1 hz])
  next hz =>
    have hz' := Bool.eq_false_of_not_eq_true hz
    have hpow : (0 : ℚ) < 2 ^ ⌊valQ b⌋ := by positivity
    rw [roundPack_clampExponent sc _ ha hz', floorVal_eq_floor, valQ_eq_signQ_mul a, mul_assoc]
    refine rounded_roundPack_signQ sc _ (mul_pos (magQ_pos hz') hpow) Nat.one_pos ?_
    rw [toReal_quot_one, magQ_eq_magUnits, zpow_add₀ two_ne_zero]
    push_cast
    ring

/-! ### The nine rounded operations -/

/-- The lane function of a rounded operation on finite operands (a divisor not zero): its exact value rounded, with `D` for a
denormal operand. -/
theorem laneOp_rounded (sc : StatusContext) (imm8 : BitVec 8) (args : LaneArgs p) {x : ℚ}
    (hfin : ∀ v ∈ operandList op (daz sc args.a) (daz sc args.b) (daz sc args.c), isFinite v = true)
    (hdiv : op = .div → isZero (daz sc args.b) = false)
    (hx : exactValue op (valQ (daz sc args.a)) (valQ (daz sc args.b)) (valQ (daz sc args.c)) = some x) :
    ∃ r : LaneOut p, Rounded sc x r ∧
      laneOp op sc imm8 args =
        .ofValue (r.raise (denormalFlag (operandList op (daz sc args.a) (daz sc args.b) (daz sc args.c)))) := by
  have hsum (hop : op = .add ∨ op = .sub ∨ isFma op) : ∃ r : LaneOut p, Rounded sc x r ∧
      laneOp op sc imm8 args =
        .ofValue (r.raise (denormalFlag (operandList op (daz sc args.a) (daz sc args.b) (daz sc args.c)))) := by
    obtain ⟨m, z, hmz, h⟩ := laneOp_sum sc imm8 args hop hfin hx
    exact ⟨_, rounded_roundSum sc hmz _ _, h⟩
  obtain ⟨ha, hb, -⟩ := forall_mem_operandList.1 hfin
  cases op with
  | min | max | sqrt | fixupimm | fpclass | getexp | getmant | range | reduce | rndscale | cmp => cases hx
  | add | sub | fmadd | fmsub | fnmadd | fnmsub => exact hsum (by simp [isFma])
  | mul =>
    obtain ⟨r, hr, h⟩ := mul_of_isFinite sc ha (hb rfl)
    exact ⟨r, Option.some_inj.1 hx ▸ hr, congrArg LaneResult.ofValue h⟩
  | div =>
    obtain ⟨r, hr, h⟩ := div_of_isFinite sc ha (hb rfl) (hdiv rfl)
    exact ⟨r, Option.some_inj.1 hx ▸ hr, congrArg LaneResult.ofValue h⟩
  | scalef =>
    obtain ⟨r, hr, h⟩ := scalef_of_isFinite sc ha (hb rfl)
    exact ⟨r, Option.some_inj.1 hx ▸ hr, congrArg LaneResult.ofValue h⟩

/-- No rounded operation has an override or a mask result. -/
theorem overrideOf_of_exactValue {a b c x : ℚ} (hx : exactValue op a b c = some x) (f : Fields) :
    op.isMask = false ∧ overrideOf op f = none := by
  cases op with
  | min | max | sqrt | fixupimm | fpclass | getexp | getmant | range | reduce | rndscale | cmp => cases hx
  | add | sub | mul | div | fmadd | fmsub | fnmadd | fnmsub | scalef => exact ⟨rfl, rfl⟩

/-- An active lane of a rounded operation on finite operands answers its exact value rounded. -/
theorem laneAnswers_rounded {x : ℚ} (hact : ActiveLane p form f s n)
    (hfin : ∀ y ∈ operands p op s n, isFinite y = true) (hdiv : op = .div → isZero (operandB p s n) = false)
    (hx : exactValue op (valQ (operandA p s n)) (valQ (operandB p s n)) (valQ (operandC p s n)) = some x) :
    ∃ r : LaneOut p, Rounded (ambient s) x r ∧
      LaneAnswers p (Instr.build f op p form) s n r.val (denormalFlag (operands p op s n) ||| r.flags) := by
  obtain ⟨hm, ho⟩ := overrideOf_of_exactValue hx f
  obtain ⟨r, hr, h⟩ := laneOp_rounded (ambient s) f.imm8 (s.laneArgs p n) hfin hdiv hx
  refine ⟨r, hr, ?_⟩
  rw [BitVec.or_comm]
  exact laneAnswers_ambient hact hm ho h

end Sys2Proof.Machine
end

section
/-! SUPPORT. The statements about rounded arithmetic, each read off the five ways of `Rounded` (40_numerics.md R111 to R117,
43_status_context.md R172, 60_exceptions.md R305, R306). -/

namespace Sys2Proof.Machine

variable {p : Prec} {op : Op} {form : Form} {f : Fields} {s : State} {n : Nat}

/-! ### The mask bits of a context -/

theorem overflowMasked_ambient (s : State) : (ambient s).overflowMasked = s.ctrl.getLsbD 10 := by
  simp [StatusContext.overflowMasked, ambient, StatusContext.fromControlRegister, ctrlMasks]

theorem underflowMasked_ambient (s : State) : (ambient s).underflowMasked = s.ctrl.getLsbD 11 := by
  simp [StatusContext.underflowMasked, ambient, StatusContext.fromControlRegister, ctrlMasks]

theorem fuz_ambient (s : State) : (ambient s).fuz = (s.ctrl.getLsbD 15 && s.ctrl.getLsbD 11) := rfl

/-! ### Which of the five ways a result takes -/

theorem not_overflows_zero (rm : RoundingMode) : ¬ Overflows p rm 0 := by
  have hb := bias_pos p
  have hthr : (0 : ℚ) < overflowThreshold p := by
    rw [overflowThreshold, sub_pos]
    exact zpow_lt_zpow_right₀ one_lt_two (by rw [sigBits_eq]; push_cast; omega)
  have hmax : (0 : ℚ) < maxQ p := by
    rw [maxQ, sub_pos]
    exact zpow_lt_zpow_right₀ one_lt_two (by rw [sigBits_eq]; push_cast; omega)
  have hpow : (0 : ℚ) < 2 ^ (p.emax + 1) := by positivity
  cases rm <;> simp [Overflows, hthr, hmax.le, hpow]

theorem fitsPrecision_zero (p : Prec) : FitsPrecision p 0 :=
  ⟨0, 0, by rw [abs_zero]; positivity, by rw [Int.cast_zero, zero_mul]⟩

namespace Rounded

variable {sc : StatusContext} {x : ℚ} {r : LaneOut p}

/-- The flags of an overflow (40_numerics.md R116). -/
theorem flags_of_overflows (h : Rounded sc x r) (ho : Overflows p sc.roundingMode x) :
    ∃ inexact : Bool, (inexact = true ↔ ¬ FitsPrecision p x) ∧
      r.flags = flagO ||| flagIf (sc.overflowMasked || inexact) flagP := by
  cases h with
  | zero s hx hr => exact absurd (hx ▸ ho) (not_overflows_zero _)
  | overflow inexact _ _ _ _ hix hfl => exact ⟨inexact, hix, hfl⟩
  | normal _ hno | flushed hno | denormal _ _ hno => exact absurd ho hno

/-- A tiny result under flush-to-zero (40_numerics.md R117). -/
theorem eq_of_flushed (h : Rounded sc x r) (ht : TinyAfterRounding p sc.roundingMode x) (hfuz : sc.fuz = true) :
    r = { val := signedZero (decide (x < 0)), flags := flagU ||| flagP } := by
  cases h with
  | zero _ hx => exact absurd hx ht.1
  | overflow _ _ hno | normal _ _ hno => exact absurd ht hno
  | flushed _ _ _ hr => exact hr
  | denormal _ _ _ _ hno => exact absurd hfuz (by rw [hno]; decide)

/-- The flags of a tiny result that is not flushed (40_numerics.md R117). -/
theorem flags_of_tiny (h : Rounded sc x r) (ht : TinyAfterRounding p sc.roundingMode x) (hfuz : sc.fuz = false) :
    ∃ inexact offGrid : Bool, (inexact = true ↔ ¬ FitsPrecision p x) ∧ (offGrid = true ↔ ¬ OnDenormalGrid p x) ∧
      r.flags = if sc.underflowMasked then flagIf offGrid (flagU ||| flagP) else flagU ||| flagIf inexact flagP := by
  cases h with
  | zero _ hx => exact absurd hx ht.1
  | overflow _ _ hno | normal _ _ hno => exact absurd ht hno
  | flushed _ _ hfuz' => exact absurd hfuz' (by rw [hfuz]; decide)
  | denormal inexact offGrid _ _ _ _ _ hix hog _ hfl => exact ⟨inexact, offGrid, hix, hog, hfl⟩

/-- The flags of a result that neither overflows nor is tiny (40_numerics.md R112). -/
theorem flags_of_neither (h : Rounded sc x r) (ho : ¬ Overflows p sc.roundingMode x)
    (ht : ¬ TinyAfterRounding p sc.roundingMode x) :
    ∃ inexact : Bool, (inexact = true ↔ ¬ FitsPrecision p x) ∧ r.flags = flagIf inexact flagP := by
  cases h with
  | zero s hx hr =>
    refine ⟨false, ?_, by rw [hr]; rfl⟩
    simp [hx, fitsPrecision_zero]
  | overflow _ hov => exact absurd hov ho
  | normal inexact _ _ _ _ hix _ hfl => exact ⟨inexact, hix, hfl⟩
  | flushed _ htiny | denormal _ _ _ htiny => exact absurd htiny ht

/-- With underflow masked and no overflow, `P` says that the value delivered is not the exact one. -/
theorem inexact_iff (h : Rounded sc x r) (ho : ¬ Overflows p sc.roundingMode x) (hu : sc.underflowMasked = true) :
    r.flags.getLsbD 5 = true ↔ valQ r.val ≠ x := by
  have hP (b : Bool) : (flagIf b flagP).getLsbD 5 = b := by cases b <;> rfl
  have hUP (b : Bool) : (flagIf b (flagU ||| flagP)).getLsbD 5 = b := by cases b <;> rfl
  have hzero (s : Bool) : valQ (signedZero s : Lane p) = 0 := (valQ_eq_zero_iff _).2 (isZero_signedZero s)
  cases h with
  | zero s hx hr => simp [hr, hx, hzero]
  | overflow _ hov => exact absurd hov ho
  | normal inexact _ _ _ _ hix hval hfl => rw [hfl, hP, hix, ne_eq, hval]
  | flushed _ htiny _ hr =>
    rw [hr, hzero]
    exact iff_of_true (hUP true) (Ne.symm htiny.1)
  | denormal _ offGrid _ _ _ _ _ _ hog hval hfl => rw [hfl, hu, if_pos rfl, hUP, hog, ne_eq, hval]

end Rounded

/-! ### The statements -/

/-- Settles O32: every way but the flushed one is correctly rounded. -/
theorem arithmeticIsCorrectlyRounded : Obligations.ArithmeticIsCorrectlyRounded := by
  intro p form f s n op x hact hfin hdiv hx hflush
  obtain ⟨r, hr, hans⟩ := laneAnswers_rounded hact hfin hdiv hx
  exact ⟨r.val, _, hans, hr.roundedTo hflush⟩

/-- A flag set that a truth value picks, where the truth value says that a property fails. -/
theorem flags_of_iff {b : Bool} {P : Prop} {fl : Flags} {g : Bool → Flags} (hb : b = true ↔ ¬ P) (hfl : fl = g b) :
    (¬ P → fl = g true) ∧ (P → fl = g false) :=
  ⟨fun h => by rw [hfl, hb.2 h], fun h => by rw [hfl, Bool.eq_false_of_not_eq_true fun hb' => hb.1 hb' h]⟩

/-- Settles O33: the flags of each of the five ways. -/
theorem flagsOfRounding : Obligations.FlagsOfRounding := by
  intro p form f s n op x hact hfin hdiv hx
  obtain ⟨r, hr, hans⟩ := laneAnswers_rounded hact hfin hdiv hx
  refine ⟨r.val, r.flags, hans, fun ho => ?_, fun ho => ⟨fun ht => ⟨fun hfuz => ?_, fun hfuz hum => ?_, fun hum => ?_⟩,
    fun ht => ?_, fun hall => ?_⟩⟩
  · obtain ⟨ix, hix, hfl⟩ := hr.flags_of_overflows ho
    rw [overflowMasked_ambient] at hfl
    refine ⟨fun h => ?_, fun hom hfit => ?_⟩
    · have hP : (s.ctrl.getLsbD 10 || ix) = true := by simpa [hix] using h
      rw [hfl, hP]
      rfl
    · rw [hfl, hom, Bool.eq_false_of_not_eq_true fun h => hix.1 h hfit]
      rfl
  · rw [hr.eq_of_flushed ht hfuz]
  · obtain ⟨ix, og, -, hog, hfl⟩ := hr.flags_of_tiny ht hfuz
    rw [underflowMasked_ambient, hum, if_pos rfl] at hfl
    exact flags_of_iff (g := fun b => flagIf b (flagU ||| flagP)) hog hfl
  · have hfuz : (ambient s).fuz = false := by rw [fuz_ambient, hum, Bool.and_false]
    obtain ⟨ix, og, hix, -, hfl⟩ := hr.flags_of_tiny ht hfuz
    rw [underflowMasked_ambient, hum, if_neg (by decide)] at hfl
    exact flags_of_iff (g := fun b => flagU ||| flagIf b flagP) hix hfl
  · obtain ⟨ix, hix, hfl⟩ := hr.flags_of_neither ho ht
    exact flags_of_iff (g := fun b => flagIf b flagP) hix hfl
  · have hum : (ambient s).underflowMasked = true := by
      rw [StatusContext.underflowMasked, show (ambient s).exceptionMasks = 0x3F#6 from hall]
      rfl
    exact hr.inexact_iff ho hum

/-- Settles O34: the flushed way. -/
theorem tinyResultsFlushToZero : Obligations.TinyResultsFlushToZero := by
  intro p form f s n op x hact hfin hdiv hx hfz hum ht
  obtain ⟨r, hr, hans⟩ := laneAnswers_rounded hact hfin hdiv hx
  have hfuz : (ambient s).fuz = true := by rw [fuz_ambient, hfz, hum]; rfl
  rw [hr.eq_of_flushed ht hfuz] at hans
  rwa [BitVec.or_assoc]

end Sys2Proof.Machine
end

section
/-! SUPPORT. What the response says of an unmasked `O` or `U` (43_status_context.md R176, R178; 60_exceptions.md R305,
R306). -/

namespace Sys2Proof.Machine

variable {p : Prec} {op : Op} {form : Form} {f : Fields} {s t : State} {n : Nat} {fl : Flags}

theorem getLsbD_ctrlMasks (c : CtrlWord) {j : Nat} (hj : j < 6) : (ctrlMasks c).getLsbD j = c.getLsbD (7 + j) := by
  simp [ctrlMasks, hj]

theorem and_not_ne_zero_of_getLsbD {m : Flags} {j : Nat} (hj : j < 6) (hf : fl.getLsbD j = true)
    (hm : m.getLsbD j = false) : fl &&& ~~~m ≠ 0#6 := by
  intro h
  have hbit := congrArg (BitVec.getLsbD · j) h
  simp only [BitVec.getLsbD_and, BitVec.getLsbD_not, hf, hm, hj, BitVec.getLsbD_zero] at hbit
  exact absurd hbit (by decide)

/-- With `I`, `D` and `Z` masked no raised flag calls for dropping the others. -/
theorem unmasked_preComputational_eq_zero (h : s.ctrl.extractLsb' 7 3 = 7#3) (fl : Flags) :
    fl &&& ~~~ctrlMasks s.ctrl &&& preComputational = 0#6 := by
  have hlow : ~~~ctrlMasks s.ctrl &&& preComputational = 0#6 := by
    apply BitVec.eq_of_getLsbD_eq
    intro j hj
    rw [BitVec.getLsbD_and, BitVec.getLsbD_not, getLsbD_ctrlMasks _ hj]
    have hbit (i : Nat) (hi : i < 3) : s.ctrl.getLsbD (7 + i) = true := by
      have := congrArg (BitVec.getLsbD · i) h
      simp only [BitVec.getLsbD_extractLsb', hi, decide_true, Bool.true_and] at this
      rw [this]
      interval_cases i <;> rfl
    by_cases h3 : j < 3
    · rw [hbit j h3]
      simp
    · have hge : 3 ≤ j := not_lt.1 h3
      have hpost : preComputational.getLsbD j = false := by interval_cases j <;> rfl
      rw [hpost]
      simp
  rw [BitVec.and_assoc, hlow]
  simp

namespace Reports

/-- An unmasked flag of a lane faults, and where nothing is dropped from the report all of the lane's flags are in it. -/
theorem fault_eq_true {j : Nat} (h : Reports form s t fl) (hj : j < 6) (hf : fl.getLsbD j = true)
    (hm : s.ctrl.getLsbD (7 + j) = false) : t.fault = true :=
  h.1 (and_not_ne_zero_of_getLsbD hj hf (by rw [getLsbD_ctrlMasks _ hj, hm]))

theorem getLsbD_finalFlags {j : Nat} (h : Reports form s t fl) (hlow : s.ctrl.extractLsb' 7 3 = 7#3)
    (hf : fl.getLsbD j = true) : t.finalFlags.getLsbD j = true := by
  obtain ⟨-, -, hall, -, -⟩ := h
  have hbit := congrArg (BitVec.getLsbD · j) (hall (unmasked_preComputational_eq_zero hlow _))
  simpa [hf] using hbit

theorem finalFlags_eq_of_scalar (h : Reports form s t fl) (hlow : s.ctrl.extractLsb' 7 3 = 7#3) (hs : form = .scalar) :
    t.finalFlags = fl := by
  obtain ⟨-, -, -, -, hlone⟩ := h
  rw [(hlone hs).1, reportedFlags, if_pos (unmasked_preComputational_eq_zero hlow _)]

end Reports

theorem getLsbD_denormalFlag (l : List (Lane p)) (j : Nat) :
    (denormalFlag l).getLsbD j = (decide (j = 1) && l.any isDenorm) := by
  unfold denormalFlag flagIf
  cases l.any isDenorm
  · simp
  · by_cases hj : j < 6
    · interval_cases j <;> rfl
    · simp [flagD, show 6 ≤ j by omega, show j ≠ 1 by omega]

/-- A lane that raises an unmasked `U` or `O` with `P` when it is inexact: what the response says of it. -/
theorem LaneAnswers.of_unmasked {l : List (Lane p)} {fx : Flags} {v : Lane p} {j : Nat} {inexact : Bool} {x : ℚ}
    (h : LaneAnswers p (Instr.build f op p form) s n v (denormalFlag l ||| (fx ||| flagIf inexact flagP)))
    (hfx : fx = flagO ∧ j = 3 ∨ fx = flagU ∧ j = 4) (hm : s.ctrl.getLsbD (7 + j) = false)
    (hix : inexact = true ↔ ¬ FitsPrecision p x) :
    ∃ t, exec (Instr.build f op p form) s = .next t ∧ t.fault = true ∧
      (s.ctrl.extractLsb' 7 3 = 7#3 →
        t.finalFlags.getLsbD j = true ∧ (¬ FitsPrecision p x → t.finalFlags.getLsbD 5 = true) ∧
        (form = .scalar → FitsPrecision p x → t.finalFlags.getLsbD 5 = false)) := by
  obtain ⟨t, ht, -, hrep⟩ := h
  rw [build_form] at hrep
  have hj : j < 6 := by omega
  have hbit : (denormalFlag l ||| (fx ||| flagIf inexact flagP)).getLsbD j = true := by
    rcases hfx with ⟨rfl, rfl⟩ | ⟨rfl, rfl⟩ <;> simp [flagO, flagU]
  have hP : (denormalFlag l ||| (fx ||| flagIf inexact flagP)).getLsbD 5 = inexact := by
    rw [BitVec.getLsbD_or, getLsbD_denormalFlag]
    rcases hfx with ⟨rfl, -⟩ | ⟨rfl, -⟩ <;> cases inexact <;> rfl
  refine ⟨t, ht, hrep.fault_eq_true hj hbit hm, fun hlow => ⟨hrep.getLsbD_finalFlags hlow hbit, fun hfit => ?_,
    fun hs hfit => ?_⟩⟩
  · exact hrep.getLsbD_finalFlags hlow (hP.trans (hix.2 hfit))
  · rw [hrep.finalFlags_eq_of_scalar hlow hs, hP]
    exact Bool.eq_false_of_not_eq_true fun h => hix.1 h hfit

/-- Settles O35: the flags of an overflow and of a tiny result where they are unmasked, in the response. -/
theorem unmaskedRangeExceptionsFault : Obligations.UnmaskedRangeExceptionsFault := by
  intro p form f s n op x hact hfin hdiv hx
  obtain ⟨r, hr, hans⟩ := laneAnswers_rounded hact hfin hdiv hx
  refine ⟨fun hum ht => ?_, fun hom ho => ?_⟩
  · have hfuz : (ambient s).fuz = false := by rw [fuz_ambient, hum, Bool.and_false]
    obtain ⟨ix, og, hix, -, hfl⟩ := hr.flags_of_tiny ht hfuz
    rw [underflowMasked_ambient, hum, if_neg (by decide)] at hfl
    rw [hfl] at hans
    exact hans.of_unmasked (.inr ⟨rfl, rfl⟩) hum hix
  · obtain ⟨ix, hix, hfl⟩ := hr.flags_of_overflows ho
    rw [overflowMasked_ambient, hom, Bool.false_or] at hfl
    rw [hfl] at hans
    exact hans.of_unmasked (.inl ⟨rfl, rfl⟩) hom hix

end Sys2Proof.Machine
end

section
/-! SUPPORT. Rounding to a multiple of `2^-M`, and REDUCE as the exact sum of a lane and its rounded negation
(48_round_reduce_scalef.md R261, R264, R265); the sign of an exact zero sum (40_numerics.md R118). -/

namespace Sys2Proof.Machine

variable {p : Prec} {op : Op} {form : Form} {f : Fields} {s : State} {n : Nat}

/-! ### Rounding a lane to a multiple of a power of two -/

section RoundAt

variable {d : Direction} {z : ℤ} {a : ℝ} (ha : 0 ≤ a)
include ha

/-- Rounding moves a magnitude by no more than the grid's step. -/
theorem abs_sub_roundAt_le : |a - roundAt d z a| ≤ 2 ^ z := by
  have hlo := floor_mul_zpow_le (z := z) ha
  have hhi := lt_floor_add_one_mul_zpow (z := z) (a := a)
  have hz : (0 : ℝ) < 2 ^ z := by positivity
  rw [abs_le]
  rcases roundAt_cases (d := d) (z := z) ha with hr | ⟨hr, -⟩
  · rw [hr]
    constructor <;> linarith
  · rw [hr]
    constructor <;> linarith

end RoundAt

/-- Off a grid a finite magnitude has a finer last place than the grid, so its rounded multiple takes no more than
`p` bits. -/
theorem roundNat_le_of_roundAt_ne {d : Direction} {z : ℤ} {v : Lane p} (h : roundAt d z (magR v) ≠ magR v) :
    roundNat d (magR v / 2 ^ z) ≤ 2 ^ (p.fb + 1) := by
  obtain ⟨j, w, hj, -, hv⟩ := magR_eq_mul_zpow v
  have hw : w < z := by
    by_contra hw
    obtain ⟨i, rfl⟩ : ∃ i : ℕ, w = i + z := ⟨(w - z).toNat, by omega⟩
    refine h ((roundAt_eq_iff d z _).2 ⟨j * 2 ^ i, ?_⟩)
    rw [hv, Nat.cast_mul, mul_assoc, two_pow_natCast_mul]
  have hlt : magR v / 2 ^ z < ((2 ^ (p.fb + 1) : ℕ) : ℝ) := by
    rw [div_lt_iff₀ (by positivity), hv]
    calc (j : ℝ) * 2 ^ w < ((2 ^ (p.fb + 1) : ℕ) : ℝ) * 2 ^ w :=
          mul_lt_mul_of_pos_right (by exact_mod_cast hj) (by positivity)
      _ ≤ ((2 ^ (p.fb + 1) : ℕ) : ℝ) * 2 ^ z :=
          mul_le_mul_of_nonneg_left (zpow_le_zpow_right₀ one_le_two hw.le) (by positivity)
  have hnonneg : 0 ≤ magR v / 2 ^ z := div_nonneg (magR_nonneg v) (by positivity)
  have hfl := (Nat.floor_lt hnonneg).2 hlt
  rcases roundNat_cases d hnonneg with hr | ⟨hr, -⟩ <;> omega

/-- `v` is the lane `t` rounded to a multiple of `2^-m` under a context's mode, with the sign of `t`. -/
structure HoldsMultiple (sc : StatusContext) (m : ℕ) (t v : Lane p) : Prop where
  sign_eq : sign v = sign t
  finite : isFinite v = true
  magR_eq : magR v = roundAt (sc.direction (sign t)) (-m) (magR t)

/-- The power of two of a grid that the scale of RNDSCALE and REDUCE names is a normal value far below the largest. -/
theorem scale_bounds {m : ℕ} (hm : m ≤ 15) : p.emin ≤ -m ∧ (p.fb : ℤ) + 1 - m ≤ p.emax := by
  have h : p.emin ≤ -15 ∧ (p.fb : ℤ) + 1 ≤ p.emax := by cases p <;> decide
  omega

theorem immScale_le (imm8 : BitVec 8) : immScale imm8 ≤ 15 := by
  have := (imm8.extractLsb' 4 4).isLt
  unfold immScale
  omega

/-- A multiple of `2^-m` of at most `2^p` units is a value of the format. -/
theorem fits_of_le_two_pow {m k : ℕ} (hm : m ≤ 15) (hk : 0 < k) (hle : k ≤ 2 ^ (p.fb + 1)) :
    (k : ℝ) * 2 ^ (-m : ℤ) < 2 ^ (p.emax + 1) ∧
      ∃ (j : ℕ) (w : ℤ), j < 2 ^ p.sigBits ∧ p.unitExp ≤ w ∧ (k : ℝ) * 2 ^ (-m : ℤ) = j * 2 ^ w := by
  obtain ⟨hmin, hmax⟩ := scale_bounds (p := p) hm
  constructor
  · calc (k : ℝ) * 2 ^ (-m : ℤ) ≤ ((2 ^ (p.fb + 1) : ℕ) : ℝ) * 2 ^ (-m : ℤ) := natCast_mul_zpow_le.2 hle
      _ = 2 ^ (((p.fb + 1 : ℕ) : ℤ) + -m) := two_pow_natCast_mul _ _
      _ < 2 ^ (p.emax + 1) := zpow_lt_zpow_right₀ one_lt_two (by push_cast; omega)
  · refine exists_fit_of_emin_le hle ((zpow_le_zpow_right₀ one_le_two hmin).trans ?_)
    exact le_mul_of_one_le_left (by positivity) (by exact_mod_cast hk)

/-- A multiple that a finite lane is rounded to is a value of the format. -/
theorem holdsMultiple_packExact (sc : StatusContext) {m : ℕ} (hm : m ≤ 15) {t : Lane p} (ht : isFinite t = true)
    (hk : 0 < roundNat (sc.direction (sign t)) (magR t / 2 ^ (-m : ℤ))) :
    HoldsMultiple sc m t (packExact (sign t) (roundNat (sc.direction (sign t)) (magR t / 2 ^ (-m : ℤ))) (-m)) := by
  set d := sc.direction (sign t)
  set k := roundNat d (magR t / 2 ^ (-m : ℤ)) with hkdef
  have hval : (k : ℝ) * 2 ^ (-m : ℤ) = roundAt d (-m) (magR t) := rfl
  obtain ⟨hlog, j, w, hj, hw, heq⟩ : (k : ℝ) * 2 ^ (-m : ℤ) < 2 ^ (p.emax + 1) ∧
      ∃ (j : ℕ) (w : ℤ), j < 2 ^ p.sigBits ∧ p.unitExp ≤ w ∧ (k : ℝ) * 2 ^ (-m : ℤ) = j * 2 ^ w := by
    by_cases hexact : roundAt d (-m) (magR t) = magR t
    · rw [hval, hexact]
      exact ⟨magR_lt_zpow ht, magR_eq_mul_zpow t⟩
    · exact fits_of_le_two_pow hm hk (roundNat_le_of_roundAt_ne hexact)
  have hmax : log2At k (-m) ≤ p.emax := by
    by_contra h
    exact absurd ((le_log2At_iff hk).1 (by omega : p.emax + 1 ≤ log2At k (-m))) (not_le.2 hlog)
  obtain ⟨hs, hfin, hmag⟩ := packExact_spec (sign t) hk hmax hj hw heq
  exact ⟨hs, hfin, hmag.trans hval⟩

/-- `round_to_int` of a finite lane: `P` exactly when the lane is no multiple (48_round_reduce_scalef.md R261). -/
theorem roundToInt_of_isFinite (sc : StatusContext) {a : Lane p} {m : ℕ} (hm : m ≤ 15)
    (ha : isFinite (daz sc a) = true) :
    ∃ v, HoldsMultiple sc m (daz sc a) v ∧
      roundToInt sc a m =
        { val := v
          flags := flagIf
            (decide (roundAt (sc.direction (sign (daz sc a))) (-m) (magR (daz sc a)) ≠ magR (daz sc a))) flagP } := by
  have hnan := isNaN_eq_false_of_isFinite ha
  have hinf := isInf_eq_false_of_isFinite ha
  rw [isNaN_daz] at hnan
  have hvalid : (Exact.quot (magUnits (daz sc a)) 1 p.unitExp).Valid := valid_quot_one _ _
  have hreal : (Exact.quot (magUnits (daz sc a)) 1 p.unitExp).toReal = magR (daz sc a) := toReal_quot_one _ _
  unfold roundToInt
  simp only [hnan, hinf, Bool.false_or, Bool.false_eq_true, if_false]
  generalize daz sc a = t at *
  have hdir : sc.roundingMode.direction (sign t) = sc.direction (sign t) := rfl
  rw [compareAt_rnd_ne hvalid, rnd_eq _ _ hvalid, hreal, hdir]
  split
  next hz =>
    have hmag : magR t = 0 := by rw [magR, (magUnits_eq_zero_iff t).2 hz, Nat.cast_zero, zero_mul]
    have hround : roundAt (sc.direction (sign t)) (-m) 0 = 0 := (roundAt_eq_iff _ _ _).2 ⟨0, by simp⟩
    rw [hmag, hround]
    exact ⟨t, ⟨rfl, ha, by rw [hmag, hround]⟩, by simp [quietly]⟩
  next hz =>
    refine ⟨_, ?_, rfl⟩
    split
    next h0 =>
      refine ⟨sign_signedZero _, isFinite_of_expf_eq_zero (expf_signedZero _), ?_⟩
      rw [magR, magUnits_signedZero, roundAt, h0, Nat.cast_zero, zero_mul, zero_mul]
    next h0 => exact holdsMultiple_packExact sc hm ha (Nat.pos_of_ne_zero h0)

theorem magR_bounds_of_isDenorm {v : Lane p} (h : isDenorm v = true) : 0 < magR v ∧ magR v < 2 ^ p.emin := by
  have hfrac := frac_lt v
  have hexp := expf_eq_zero_of_isDenorm h
  have hpos : frac v ≠ 0 := by simpa [isDenorm, hexp] using h
  have hsum : (p.fb : ℤ) + p.unitExp = p.emin := by simp [Prec.unitExp]
  rw [magR, magUnits_of_expf_eq_zero hexp]
  refine ⟨mul_pos (by exact_mod_cast Nat.pos_of_ne_zero hpos) (by positivity), ?_⟩
  rw [← hsum, ← two_pow_natCast_mul]
  exact mul_lt_mul_of_pos_right (by exact_mod_cast hfrac) (by positivity)

/-! ### REDUCE -/

/-- A lane rounded to a multiple of `2^-m` is zero or `2^-m` or more, so no denormal. -/
theorem HoldsMultiple.isDenorm_eq_false {sc : StatusContext} {m : ℕ} {t v : Lane p} (h : HoldsMultiple sc m t v)
    (hm : m ≤ 15) : isDenorm v = false := by
  refine Bool.eq_false_of_not_eq_true fun hd => ?_
  obtain ⟨hlo, hhi⟩ := magR_bounds_of_isDenorm hd
  rw [h.magR_eq, roundAt] at hlo hhi
  generalize roundNat _ _ = k at hlo hhi
  have hk : 1 ≤ k := Nat.one_le_iff_ne_zero.2 fun h0 => by simp [h0] at hlo
  have hle : (2 : ℝ) ^ p.emin ≤ 2 ^ (-m : ℤ) := zpow_le_zpow_right₀ one_le_two (scale_bounds hm).1
  have hge : (2 : ℝ) ^ (-m : ℤ) ≤ k * 2 ^ (-m : ℤ) := le_mul_of_one_le_left (by positivity) (by exact_mod_cast hk)
  linarith

theorem daz_of_not_isDenorm (sc : StatusContext) {v : Lane p} (h : isDenorm v = false) : daz sc v = v :=
  flushDenormal_of_not_isDenorm _ h

/-- The difference of a lane and its rounded value, in units of the smallest denormal. -/
def reduceUnits (t v : Lane p) : ℤ := valUnits t + valUnits (negLane v)

theorem reduceUnits_cast (t v : Lane p) : valQ t - valQ v = (reduceUnits t v : ℚ) * 2 ^ p.unitExp := by
  rw [reduceUnits, Int.cast_add, add_mul, ← valQ_eq_valUnits, ← valQ_eq_valUnits, valQ_negLane, sub_eq_add_neg]

/-- `reduce` of a finite lane rounds the exact difference of the lane and its rounded value
(48_round_reduce_scalef.md R264). -/
theorem reduce_of_isFinite (sc : StatusContext) {a : Lane p} (imm8 : BitVec 8) (ha : isFinite (daz sc a) = true) :
    ∃ v, HoldsMultiple sc (immScale imm8) (daz sc a) v ∧
      reduce sc a imm8 =
        ((roundSum sc (reduceUnits (daz sc a) v) p.unitExp (sign (daz sc a)) (!sign (daz sc a))).raise
          (denormalFlag [daz sc a])).raise
          (flagIf (decide (roundAt (sc.direction (sign (daz sc a))) (-immScale imm8) (magR (daz sc a)) ≠
            magR (daz sc a))) flagP) := by
  have hm := immScale_le imm8
  obtain ⟨v, hv, hround⟩ := roundToInt_of_isFinite sc hm ha
  have hden := hv.isDenorm_eq_false hm
  have hnan := isNaN_eq_false_of_isFinite ha
  have hinf := isInf_eq_false_of_isFinite ha
  rw [isNaN_daz] at hnan
  rw [isInf_daz] at hinf
  have hsub : sub sc a v = addCore sc (daz sc a) (negLane v) := by
    rw [sub_of_not_isNaN sc hnan (isNaN_eq_false_of_isFinite hv.finite), daz_of_not_isDenorm sc hden]
  have hneg : isFinite (negLane v) = true := by rw [isFinite_negLane, hv.finite]
  refine ⟨v, hv, ?_⟩
  unfold reduce
  simp only [hround, hinf, hsub, Bool.false_eq_true, if_false]
  rw [addCore_of_isFinite sc ha hneg, sign_negLane, hv.sign_eq, denormalFlag_pair, isDenorm_negLane, hden,
    Bool.or_false]
  simp only [reduceUnits, denormalFlag, List.any_cons, List.any_nil, Bool.or_false]

/-! ### Exact zero sums -/

/-- A sum of value 0 is the zero that the signs of its terms ask for. -/
theorem roundSum_zero (sc : StatusContext) (z : ℤ) (sx sy : Bool) :
    (roundSum sc 0 z sx sy : LaneOut p) = quietly (signedZero (zeroSumSign sc sx sy)) := if_pos rfl

theorem isMask_overrideOf_of_sum (hop : op = .add ∨ op = .sub ∨ isFma op) (f : Fields) :
    op.isMask = false ∧ overrideOf op f = none := by
  rcases hop with rfl | rfl | hfma
  · exact ⟨rfl, rfl⟩
  · exact ⟨rfl, rfl⟩
  · exact ⟨isMask_of_isFma hfma, overrideOf_of_isFma hfma f⟩

theorem eq_zero_of_mul_zpow_eq_zero {m z : ℤ} (h : (0 : ℚ) = m * 2 ^ z) : m = 0 := by
  rcases mul_eq_zero.1 h.symm with h | h
  · exact_mod_cast h
  · exact absurd h (by positivity)

/-- A finite multiple of `2^-M` is its own rounded value, and no denormal. -/
theorem reduce_of_multiple (sc : StatusContext) {a : Lane p} {imm8 : BitVec 8} (ha : isFinite (daz sc a) = true)
    {k : ℤ} (hk : valQ (daz sc a) = (k : ℚ) / (2 : ℚ) ^ immScale imm8) :
    reduce sc a imm8 = quietly (signedZero (decide (sc.roundingMode = .rd))) := by
  obtain ⟨v, hv, hred⟩ := reduce_of_isFinite sc imm8 ha
  have hmul : magR (daz sc a) = k.natAbs * 2 ^ (-immScale imm8 : ℤ) := by
    rw [← abs_valQ_cast, hk]
    push_cast
    rw [abs_div, abs_of_pos (by positivity : (0 : ℝ) < 2 ^ immScale imm8), zpow_neg, zpow_natCast, div_eq_mul_inv,
      Nat.cast_natAbs, Int.cast_abs]
  have hexact : roundAt (sc.direction (sign (daz sc a))) (-immScale imm8) (magR (daz sc a)) = magR (daz sc a) :=
    (roundAt_eq_iff _ _ _).2 ⟨_, hmul⟩
  have hself : HoldsMultiple sc (immScale imm8) (daz sc a) (daz sc a) := ⟨rfl, ha, hexact.symm⟩
  have hden := hself.isDenorm_eq_false (immScale_le imm8)
  have hval : valQ (daz sc a) = valQ v := by
    rw [← Rat.cast_inj (α := ℝ), valQ_cast, valQ_cast, hv.sign_eq, hv.magR_eq, hexact]
  have hunits : reduceUnits (daz sc a) v = 0 :=
    eq_zero_of_mul_zpow_eq_zero (by rw [← reduceUnits_cast, hval, sub_self])
  have hflag : denormalFlag [daz sc a] = 0#6 := by simp [denormalFlag, hden]
  have hsigns (b : Bool) : zeroSumSign sc b (!b) = decide (sc.roundingMode = .rd) := by cases b <;> rfl
  rw [hred, hunits, roundSum_zero, hsigns, hexact, hflag]
  simp [LaneOut.raise, quietly]

/-- Settles O36: the sum handed to `round_pack` is 0, and REDUCE subtracts a multiple from itself. -/
theorem signOfAnExactZeroSum : Obligations.SignOfAnExactZeroSum := by
  intro p form f s n op hact
  refine ⟨fun hop hfin hx => ?_, fun hfin ⟨k, hk⟩ => ?_⟩
  · obtain ⟨m, z, hm, hlane⟩ := laneOp_sum (ambient s) f.imm8 (s.laneArgs p n) hop hfin hx
    obtain ⟨hmask, ho⟩ := isMask_overrideOf_of_sum hop f
    rw [eq_zero_of_mul_zpow_eq_zero hm, roundSum_zero] at hlane
    have hans := laneAnswers_ambient hact hmask ho hlane
    rw [raise_flags, raise_val, quietly_flags, quietly_val, BitVec.zero_or] at hans
    exact hans
  · have hred := reduce_of_multiple (overridden f s) (a := laneOf p s.a n) hfin hk
    have hlane : laneResult p .reduce f s n =
        .ofValue (quietly (signedZero (decide ((overridden f s).roundingMode = .rd)))) :=
      congrArg LaneResult.ofValue hred
    exact laneAnswers_of_eq hact rfl (by rw [hlane]; rfl) (by rw [hlane]; exact BitVec.zero_and)

end Sys2Proof.Machine
end

section
/-! SUPPORT. The flags of every lane function in one rule: `I` alone for a NaN or an invalid operand, else `D` for a denormal
operand beside flags that the operation can raise (40_numerics.md R114, 60_exceptions.md R302 to R307). -/

namespace Sys2Proof.Machine

variable {p : Prec} {op : Op} {fl gl m : Flags}

/-! ### Flags within a set of flags -/

/-- Every flag of `fl` is one of `m`. -/
abbrev Within (fl m : Flags) : Prop := fl &&& ~~~m = 0#6

theorem within_iff : Within fl m ↔ ∀ j < 6, fl.getLsbD j = true → m.getLsbD j = true := by
  unfold Within
  constructor
  · intro h j hj hf
    have hbit := congrArg (BitVec.getLsbD · j) h
    simpa [hf, hj] using hbit
  · intro h
    apply BitVec.eq_of_getLsbD_eq
    intro j hj
    have := h j hj
    simp only [BitVec.getLsbD_and, BitVec.getLsbD_not, hj, decide_true, Bool.true_and, BitVec.getLsbD_zero]
    cases hf : fl.getLsbD j <;> simp_all

theorem within_zero (m : Flags) : Within 0#6 m := BitVec.zero_and

theorem Within.or (h : Within fl m) (h' : Within gl m) : Within (fl ||| gl) m := by
  rw [within_iff] at *
  intro j hj hf
  rw [BitVec.getLsbD_or, Bool.or_eq_true] at hf
  exact hf.elim (h j hj) (h' j hj)

theorem Within.flagIf (h : Within fl m) (b : Bool) : Within (flagIf b fl) m := by
  cases b
  · exact within_zero m
  · exact h

theorem Within.mono {k : Flags} (h : Within fl m) (hmk : Within m k) : Within fl k := by
  rw [within_iff] at *
  exact fun j hj hf => hmk j hj (h j hj hf)

theorem Within.getLsbD_eq_false (h : Within fl m) {j : Nat} (hj : j < 6) (hm : m.getLsbD j = false) :
    fl.getLsbD j = false :=
  Bool.eq_false_of_not_eq_true fun hf => by rw [within_iff.1 h j hj hf] at hm; cases hm

/-! ### The flags of rounding -/

/-- The flags that rounding can raise. -/
def roundingFlags : Flags := flagO ||| flagU ||| flagP

theorem within_roundPack (sc : StatusContext) (s : Bool) (x : Exact) :
    Within (roundPack sc s x : LaneOut p).flags roundingFlags := by
  have hP : Within flagP roundingFlags := by decide
  have hO : Within flagO roundingFlags := by decide
  have hU : Within flagU roundingFlags := by decide
  rcases roundPack_cases (p := p) sc s x with ⟨-, h⟩ | ⟨-, -, h⟩ | ⟨-, h⟩
  · rw [h]
    exact hO.or (hP.flagIf _)
  · rw [h]
    exact hP.flagIf _
  · rw [h, underflow]
    split
    · exact hU.or hP
    · simp only
      split
      · exact (hU.or hP).flagIf _
      · exact hU.or (hP.flagIf _)

theorem within_roundSum (sc : StatusContext) (x z : ℤ) (sx sy : Bool) :
    Within (roundSum sc x z sx sy : LaneOut p).flags roundingFlags := by
  unfold roundSum
  split
  · exact within_zero _
  · exact within_roundPack _ _ _

/-! ### Lanes without a NaN or invalid operands -/

/-- The flags of a lane that is not invalid: `D` for a denormal operand beside some that the operation can raise. -/
def NumericFlags (op : Op) (l : List (Lane p)) (fl : Flags) : Prop :=
  ∃ e, Within e (possibleFlags op &&& ~~~(flagI ||| flagD)) ∧ fl = e ||| denormalFlag l

theorem numericFlags_of_denormalFlag (op : Op) (l : List (Lane p)) : NumericFlags op l (denormalFlag l) :=
  ⟨0#6, within_zero _, BitVec.zero_or.symm⟩

theorem numericFlags_raise {r : LaneOut p} {l : List (Lane p)}
    (h : Within r.flags (possibleFlags op &&& ~~~(flagI ||| flagD))) : NumericFlags op l (r.raise (denormalFlag l)).flags :=
  ⟨_, h, rfl⟩

/-- The operations that round a sum, product, quotient or scaling may raise every flag of rounding. -/
theorem roundingFlags_within_possibleFlags
    (hop : op = .add ∨ op = .sub ∨ op = .mul ∨ op = .div ∨ op = .scalef ∨ isFma op) :
    Within roundingFlags (possibleFlags op &&& ~~~(flagI ||| flagD)) := by
  rcases hop with rfl | rfl | rfl | rfl | rfl | rfl | rfl | rfl | rfl <;> decide

theorem addCore_numericFlags (sc : StatusContext) {a b : Lane p} (hop : op = .add ∨ op = .sub)
    (h : ¬ (isInf a = true ∧ isInf b = true ∧ sign a ≠ sign b)) : NumericFlags op [a, b] (addCore sc a b).flags := by
  have hround := roundingFlags_within_possibleFlags (op := op) (by tauto)
  have hvalid : (isInf a && isInf b && sign a != sign b) = false := by
    rw [Bool.eq_false_iff]
    simpa [and_assoc] using h
  rw [addCore, hvalid, if_neg (by decide), ← denormalFlag_pair]
  refine numericFlags_raise ?_
  split_ifs
  · exact within_zero _
  · exact within_zero _
  · exact (within_roundSum _ _ _ _ _).mono hround

theorem mul_numericFlags (sc : StatusContext) {a b : Lane p} (ha : isNaN a = false) (hb : isNaN b = false)
    (h : ¬ InvalidOperands .mul (daz sc a) (daz sc b) (daz sc b)) :
    NumericFlags .mul [daz sc a, daz sc b] (mul sc a b).flags := by
  have hround := roundingFlags_within_possibleFlags (op := .mul) (by tauto)
  have hvalid : (isInf (daz sc a) && isZero (daz sc b) || isZero (daz sc a) && isInf (daz sc b)) = false := by
    rw [Bool.eq_false_iff]
    simpa [InvalidOperands, or_comm] using h
  simp only [mul, isNaN_daz, ha, hb, hvalid, Bool.or_self, Bool.false_eq_true, if_false]
  rw [← denormalFlag_pair]
  refine numericFlags_raise ?_
  split_ifs
  · exact within_zero _
  · exact within_zero _
  · exact (within_roundPack _ _ _).mono hround

theorem div_numericFlags (sc : StatusContext) {a b : Lane p} (ha : isNaN a = false) (hb : isNaN b = false)
    (h : ¬ InvalidOperands .div (daz sc a) (daz sc b) (daz sc b)) :
    NumericFlags .div [daz sc a, daz sc b] (div sc a b).flags := by
  have hround := roundingFlags_within_possibleFlags (op := .div) (by tauto)
  have hvalid : (isInf (daz sc a) && isInf (daz sc b) || isZero (daz sc a) && isZero (daz sc b)) = false := by
    rw [Bool.eq_false_iff]
    simpa [InvalidOperands, or_comm] using h
  simp only [div, isNaN_daz, ha, hb, hvalid, Bool.or_self, Bool.false_eq_true, if_false]
  rw [← denormalFlag_pair]
  refine numericFlags_raise ?_
  split_ifs
  · exact within_zero _
  · exact within_zero _
  · exact (by decide : Within flagZ (possibleFlags .div &&& ~~~(flagI ||| flagD)))
  · exact within_zero _
  · exact (within_roundPack _ _ _).mono hround

theorem fmaCore_numericFlags (sc : StatusContext) {a b c : Lane p} (hop : isFma op) (ha : isNaN a = false)
    (hb : isNaN b = false) (hc : isNaN c = false) (h : ¬ InvalidOperands op (daz sc a) (daz sc b) (daz sc c)) :
    NumericFlags op [daz sc a, daz sc b, daz sc c]
      (fmaCore sc a b c (negatesProduct op) (negatesAddend op)).flags := by
  have hround := roundingFlags_within_possibleFlags (op := op) (by tauto)
  have hsigns := termSigns_of_isFma hop (daz sc a) (daz sc b) (daz sc c)
  have hinv : ¬ ((isZero (daz sc a) = true ∧ isInf (daz sc b) = true) ∨
      (isInf (daz sc a) = true ∧ isZero (daz sc b) = true) ∨
      ((isInf (daz sc a) = true ∨ isInf (daz sc b) = true) ∧ isInf (daz sc c) = true ∧
        (sign (daz sc a) ^^ sign (daz sc b) ^^ negatesProduct op) ≠ (sign (daz sc c) ^^ negatesAddend op))) := by
    rcases hop with rfl | rfl | rfl | rfl <;> simpa only [InvalidOperands, hsigns] using h
  have hprod : (isInf (daz sc a) && isZero (daz sc b) || isZero (daz sc a) && isInf (daz sc b)) = false := by
    rw [Bool.eq_false_iff]
    simp only [ne_eq, Bool.or_eq_true, Bool.and_eq_true]
    tauto
  have hsum : ((isInf (daz sc a) || isInf (daz sc b)) && isInf (daz sc c) &&
      (sign (daz sc a) ^^ sign (daz sc b) ^^ negatesProduct op) != (sign (daz sc c) ^^ negatesAddend op)) = false := by
    rw [Bool.eq_false_iff]
    simp only [ne_eq, Bool.and_eq_true, Bool.or_eq_true, bne_iff_ne]
    tauto
  simp only [fmaCore, isNaN_daz, ha, hb, hc, hprod, hsum, Bool.or_self, Bool.false_eq_true, if_false]
  rw [← denormalFlag_triple]
  refine numericFlags_raise ?_
  split_ifs
  · exact within_zero _
  · exact within_zero _
  · exact (within_roundSum _ _ _ _ _).mono hround

theorem denormalFlag_pair_of_isInf (a : Lane p) {b : Lane p} (hb : isInf b = true) :
    denormalFlag [a, b] = flagIf (isDenorm a) flagD := by
  rw [denormalFlag_pair, isDenorm_eq_false_of_isInf hb, Bool.or_false]

theorem scalef_numericFlags (sc : StatusContext) {a b : Lane p} (ha : isNaN a = false) (hb : isNaN b = false)
    (h : ¬ InvalidOperands .scalef (daz sc a) (daz sc b) (daz sc b)) :
    NumericFlags .scalef [daz sc a, daz sc b] (scalef sc a b).flags := by
  have hround := roundingFlags_within_possibleFlags (op := .scalef) (by tauto)
  simp only [InvalidOperands, eq_infinity_iff] at h
  simp only [scalef, isNaN_daz, ha, hb, Bool.or_self, Bool.false_eq_true, if_false]
  cases hinf : isInf (daz sc b) with
  | false =>
    simp only [Bool.false_and, Bool.false_eq_true, if_false]
    rw [← denormalFlag_pair]
    refine numericFlags_raise ?_
    split_ifs
    · exact within_zero _
    · exact (within_roundPack _ _ _).mono hround
  | true =>
    rw [← denormalFlag_pair_of_isInf _ hinf]
    cases hs : sign (daz sc b) with
    | false =>
      have hz : ¬ isZero (daz sc a) = true := fun hz => h (.inl ⟨hz, hinf, hs⟩)
      simp only [hz, Bool.not_false, Bool.and_self, Bool.false_eq_true, if_false, if_true]
      exact numericFlags_of_denormalFlag _ _
    | true =>
      have hi : ¬ isInf (daz sc a) = true := fun hi => h (.inr ⟨hi, hinf, hs⟩)
      simp only [hi, Bool.not_true, Bool.and_false, Bool.and_self, Bool.false_eq_true, if_false, if_true]
      exact numericFlags_of_denormalFlag _ _

/-! ### A square root is never tiny and never overflows -/

theorem zpow_le_sqrt {a : ℝ} {e : ℤ} (h : (2 : ℝ) ^ (2 * e) ≤ a) : (2 : ℝ) ^ e ≤ √a :=
  Real.le_sqrt_of_sq_le (by rwa [← zpow_natCast, ← zpow_mul, mul_comm])

theorem sqrt_lt_zpow {a : ℝ} {e : ℤ} (h : a < (2 : ℝ) ^ (2 * e)) : √a < (2 : ℝ) ^ e :=
  (Real.sqrt_lt' (by positivity)).2 (by rwa [← zpow_natCast, ← zpow_mul, mul_comm])

/-- Halving the exponent brings it well within the normal range. -/
theorem roundPack_root_within (sc : StatusContext) {v : Lane p} (hfin : isFinite v = true) (hz : isZero v = false) :
    Within (roundPack sc false (.root (magUnits v) p.unitExp) : LaneOut p).flags flagP := by
  have hrange : 2 * p.emin ≤ p.unitExp ∧ p.emax + 1 ≤ 2 * p.emax := by cases p <;> decide
  set m : Exact := .root (magUnits v) p.unitExp
  have hle : (2 : ℝ) ^ p.unitExp ≤ magR v := by
    have h := zpow_le_toReal_scaled hz p.unitExp
    rwa [toReal_quot_one] at h
  have hlo : (2 : ℝ) ^ p.emin ≤ m.toReal :=
    zpow_le_sqrt ((zpow_le_zpow_right₀ one_le_two hrange.1).trans hle)
  have hhi : m.toReal < 2 ^ (p.emax - 1 + 1) := by
    rw [sub_add_cancel]
    exact sqrt_lt_zpow ((magR_lt_zpow hfin).trans_le (zpow_le_zpow_right₀ one_le_two hrange.2))
  have hpos : 0 < m.toReal := lt_of_lt_of_le (by positivity) hlo
  rcases roundPack_spec (p := p) (sc := sc) (s := false) (m := m) trivial hpos with ⟨h, -⟩ | ⟨-, -, w, h, -⟩ | ⟨h, -⟩
  · exact absurd h (not_reaches_of_lt hhi (by omega))
  · rw [h]
    exact Within.flagIf (by decide) _
  · exact absurd (reaches_of_le hlo le_rfl) h

theorem denormalFlag_singleton (v : Lane p) : denormalFlag [v] = flagIf (isDenorm v) flagD := by simp [denormalFlag]

theorem sqrt_numericFlags (sc : StatusContext) {a : Lane p} (ha : isNaN a = false)
    (h : ¬ InvalidOperands .sqrt (daz sc a) (daz sc a) (daz sc a)) :
    NumericFlags .sqrt [daz sc a] (sqrt sc a).flags := by
  simp only [sqrt, isNaN_daz, ha, Bool.false_eq_true, if_false]
  have hfin := isFinite_eq_not_isInf (daz sc a) (by rw [isNaN_daz, ha])
  generalize daz sc a = a at *
  cases hz : isZero a with
  | true =>
    have hd : denormalFlag [a] = 0#6 := by
      rw [denormalFlag_singleton, isDenorm_eq_false_of_isZero hz, flagIf_false]
    exact ⟨0#6, within_zero _, by rw [hd]; rfl⟩
  | false =>
    have hs : ¬ sign a = true := fun hs => h ⟨hs, hz⟩
    simp only [hs, Bool.false_eq_true, if_false]
    rw [← denormalFlag_singleton]
    refine numericFlags_raise ?_
    split
    next => exact within_zero _
    next hinf => exact (roundPack_root_within sc (by rw [hfin]; simpa using hinf) hz).mono (by decide)

/-! ### REDUCE never overflows -/

theorem Rounded.within_of_not_overflows {sc : StatusContext} {x : ℚ} {r : LaneOut p} (h : Rounded sc x r)
    (ho : ¬ Overflows p sc.roundingMode x) : Within r.flags (flagU ||| flagP) := by
  have hU : Within flagU (flagU ||| flagP) := by decide
  have hP : Within flagP (flagU ||| flagP) := by decide
  cases h with
  | zero s hx hr =>
    rw [hr]
    exact within_zero _
  | overflow _ hov => exact absurd hov ho
  | normal _ _ _ _ _ _ _ hfl =>
    rw [hfl]
    exact hP.flagIf _
  | flushed _ _ _ hr =>
    rw [hr]
    exact hU.or hP
  | denormal _ _ _ _ _ _ _ _ _ _ hfl =>
    rw [hfl]
    split
    · exact (hU.or hP).flagIf _
    · exact hU.or (hP.flagIf _)

/-- A lane and the multiple of `2^-m` it is rounded to differ by at most 1. -/
theorem HoldsMultiple.not_overflows_sub {sc : StatusContext} {m : ℕ} {t v : Lane p} (h : HoldsMultiple sc m t v)
    (rm : RoundingMode) : ¬ Overflows p rm (valQ t - valQ v) := by
  have habs : ((|valQ t - valQ v| : ℚ) : ℝ) ≤ 1 := by
    push_cast
    rw [valQ_cast, valQ_cast, h.sign_eq, h.magR_eq, toward_sub, abs_toward]
    refine (abs_sub_roundAt_le (magR_nonneg t)).trans ?_
    rw [zpow_neg, zpow_natCast]
    exact inv_le_one_of_one_le₀ (one_le_pow₀ one_le_two)
  have hb := bias_pos p
  rw [overflows_iff]
  refine not_reaches_of_lt (l := 0) ?_ (by simp only [Prec.emax]; omega)
  rw [zero_add, zpow_one]
  linarith

theorem reduce_numericFlags (sc : StatusContext) {a : Lane p} (imm8 : BitVec 8) (ha : isNaN a = false) :
    NumericFlags .reduce [daz sc a] (reduce sc a imm8).flags := by
  have hfin := isFinite_eq_not_isInf (daz sc a) (by rw [isNaN_daz, ha])
  cases hinf : isInf a with
  | true =>
    have hd : denormalFlag [daz sc a] = 0#6 := by
      simp [denormalFlag, isDenorm_eq_false_of_isInf ((isInf_daz sc a).trans hinf)]
    refine ⟨0#6, within_zero _, ?_⟩
    rw [hd, reduce, hinf]
    rfl
  | false =>
    obtain ⟨v, hv, hred⟩ := reduce_of_isFinite sc imm8 (by rw [hfin, isInf_daz, hinf]; rfl)
    have hsum := (rounded_roundSum (p := p) sc (reduceUnits_cast (daz sc a) v) (sign (daz sc a))
      (!sign (daz sc a))).within_of_not_overflows (hv.not_overflows_sub _)
    rw [hred, raise_flags, raise_flags, BitVec.or_assoc, BitVec.or_comm (denormalFlag _), ← BitVec.or_assoc]
    refine ⟨_, (hsum.or ?_).mono (by decide), rfl⟩
    exact Within.flagIf (by decide) _

/-! ### The rule for every lane function -/

/-- Where a lane raises `I` it raises nothing else; elsewhere it raises `D` for a denormal operand, beside flags of its
operation. -/
inductive FlagRule (op : Op) (imm8 : BitVec 8) (a b c : Lane p) (fl : Flags) : Prop
  | invalid (raised : Bool)
    (invalid : (∃ v ∈ operandList op a b c, isNaN v = true) ∨ RaisesInvalid op imm8 a b c) (eq : fl = flagIf raised flagI)
  | numeric (not_nan : ∀ v ∈ operandList op a b c, isNaN v = false) (not_invalid : ¬ RaisesInvalid op imm8 a b c)
    (flags : NumericFlags op (operandList op a b c) fl)

/-- The operations of the rule: FPCLASS is silent, FIXUPIMM and RNDSCALE never raise `D` (40_numerics.md R114). -/
def FollowsFlagRule (op : Op) : Prop := op ≠ .fpclass ∧ op ≠ .fixupimm ∧ op ≠ .rndscale

theorem raisesInvalid_of_invalidOperands (imm8 : BitVec 8) {a b c : Lane p}
    (hnan : ∀ v ∈ operandList op a b c, isNaN v = false) (h : InvalidOperands op a b c) :
    RaisesInvalid op imm8 a b c := by
  cases op with
  | min | max | fixupimm | fpclass | getexp | getmant | range | reduce | rndscale | cmp => exact h.elim
  | add | sub | mul | div | sqrt | fmadd | fmsub | fnmadd | fnmsub | scalef => exact .inr ⟨hnan, h⟩

theorem isSNaN_eq_false_of_not_isNaN {v : Lane p} (h : isNaN v = false) : isSNaN v = false := by simp [isSNaN, h]

theorem not_raisesInvalid (hop : FollowsFlagRule op) (imm8 : BitVec 8) {a b c : Lane p}
    (hnan : ∀ v ∈ operandList op a b c, isNaN v = false) (h : ¬ InvalidOperands op a b c) :
    ¬ RaisesInvalid op imm8 a b c := by
  obtain ⟨h1, h2, h3⟩ := hop
  obtain ⟨ha, hb, -⟩ := forall_mem_operandList.1 hnan
  have hgen : ¬ ((∃ v ∈ operandList op a b c, isSNaN v = true) ∨
      ((∀ v ∈ operandList op a b c, isNaN v = false) ∧ InvalidOperands op a b c)) := by
    rintro (⟨v, hv, hs⟩ | ⟨-, hi⟩)
    · rw [isSNaN_eq_false_of_not_isNaN (hnan v hv)] at hs
      cases hs
    · exact h hi
  cases op with
  | fpclass => exact absurd rfl h1
  | fixupimm => exact absurd rfl h2
  | rndscale => exact absurd rfl h3
  | min | max => simp [RaisesInvalid, ha, hb rfl]
  | cmp => simp [RaisesInvalid, isSNaN_eq_false_of_not_isNaN, ha, hb rfl]
  | add | sub | mul | div | sqrt | fmadd | fmsub | fnmadd | fnmsub | getexp | getmant | range | reduce | scalef =>
    exact hgen

/-- A NaN operand of an operation is its first, or one of the others it reads. -/
theorem exists_isNaN_operandList (sc : StatusContext) (x : LaneArgs p)
    (h : ∃ v ∈ operandList op (daz sc x.a) (daz sc x.b) (daz sc x.c), isNaN v = true) :
    isNaN x.a = true ∨ (op.readsB = true ∧ isNaN x.b = true) ∨ (op.readsC = true ∧ isNaN x.c = true) := by
  obtain ⟨v, hv, hn⟩ := h
  by_contra hno
  push Not at hno
  obtain ⟨ha, hb, hc⟩ := hno
  have hall : ∀ v ∈ operandList op (daz sc x.a) (daz sc x.b) (daz sc x.c), isNaN v ≠ true :=
    forall_mem_operandList.2 (by simpa only [isNaN_daz] using ⟨ha, hb, hc⟩)
  exact hall v hv hn

/-- A NaN operand raises `I` or nothing. -/
theorem laneOp_flags_of_isNaN (hop : FollowsFlagRule op) (sc : StatusContext) (imm8 : BitVec 8) (x : LaneArgs p)
    (h : ∃ v ∈ operandList op (daz sc x.a) (daz sc x.b) (daz sc x.c), isNaN v = true) :
    ∃ raised, (laneOp op sc imm8 x).flags = flagIf raised flagI := by
  obtain ⟨h1, h2, h3⟩ := hop
  have hnan := exists_isNaN_operandList sc x h
  have hfma (hop : isFma op) (h : isNaN x.a = true ∨ isNaN x.b = true ∨ isNaN x.c = true) :
      ∃ raised, (laneOp op sc imm8 x).flags = flagIf raised flagI := by
    rw [laneOp_of_isFma hop, fmaCore_of_isNaN sc _ _ h]
    exact ⟨_, rfl⟩
  have htwo (hop : op = .add ∨ op = .sub ∨ op = .mul ∨ op = .div ∨ op = .scalef)
      (h : isNaN x.a = true ∨ isNaN x.b = true) : ∃ raised, (laneOp op sc imm8 x).flags = flagIf raised flagI := by
    rw [laneOp_of_isNaN sc imm8 x hop h]
    exact ⟨_, rfl⟩
  have hone (hop : op = .sqrt ∨ op = .getexp ∨ op = .getmant ∨ op = .rndscale) (h : isNaN x.a = true) :
      ∃ raised, (laneOp op sc imm8 x).flags = flagIf raised flagI := by
    rw [laneOp_of_isNaN_one sc imm8 x hop h]
    exact ⟨_, rfl⟩
  cases op with
  | fpclass => exact absurd rfl h1
  | fixupimm => exact absurd rfl h2
  | rndscale => exact absurd rfl h3
  | add | sub | mul | div | scalef => exact htwo (by simp) (by simpa [Op.readsB, Op.readsC] using hnan)
  | fmadd | fmsub | fnmadd | fnmsub => exact hfma (by simp [isFma]) (by simpa [Op.readsB, Op.readsC] using hnan)
  | sqrt | getexp | getmant => exact hone (by simp) (by simpa [Op.readsB, Op.readsC] using hnan)
  | reduce =>
    have ha : isNaN x.a = true := by simpa [Op.readsB, Op.readsC] using hnan
    exact ⟨_, congrArg LaneOut.flags (reduce_of_isNaN sc imm8 ha)⟩
  | min | max =>
    have hab : (isNaN x.a || isNaN x.b) = true := by simpa [Op.readsB, Op.readsC] using hnan
    exact ⟨true, by simp [laneOp, minLane, min, maxLane, max, hab]⟩
  | range =>
    have hab : (isNaN x.a || isNaN x.b) = true := by simpa [Op.readsB, Op.readsC] using hnan
    refine ⟨isSNaN x.a || isSNaN x.b, ?_⟩
    simp only [laneOp, rangeLane, range, isNaN_daz, isSNaN_daz, hab, if_true, ofValue_flags]
    split
    next hs => rw [hs, flagIf_true]
    next hs => rw [Bool.eq_false_of_not_eq_true hs, flagIf_false, quietly_flags]
  | cmp =>
    have hab : (isNaN x.a || isNaN x.b) = true := by simpa [Op.readsB, Op.readsC] using hnan
    exact ⟨_, by simp only [laneOp, cmpLane, cmp, isNaN_daz, hab, if_true, LaneResult.ofBit]; rfl⟩

/-- An infinity or a zero is no denormal, so GETEXP's answer for one may say nothing of it. -/
theorem getexp_flags (sc : StatusContext) {a : Lane p} (ha : isNaN a = false) :
    (getexp sc a).flags = denormalFlag [daz sc a] := by
  simp only [getexp, isNaN_daz, ha, Bool.false_eq_true, if_false, denormalFlag_singleton]
  split
  next hi => rw [isDenorm_eq_false_of_isInf hi]; rfl
  next =>
    split
    next hz => rw [isDenorm_eq_false_of_isZero hz]; rfl
    next => rfl

theorem getmant_flags (sc : StatusContext) {a : Lane p} (ha : isNaN a = false) (signCtrl intervalCtrl : BitVec 2) :
    (getmant sc a signCtrl intervalCtrl).flags = denormalFlag [daz sc a] := by
  simp only [getmant, isNaN_daz, ha, Bool.false_eq_true, if_false, denormalFlag_singleton]
  split
  next h =>
    have hd : isDenorm (daz sc a) = false := by
      rw [Bool.or_eq_true] at h
      exact h.elim isDenorm_eq_false_of_isInf isDenorm_eq_false_of_isZero
    rw [hd]
    rfl
  next => rfl

/-- Operands that are no NaN and not invalid. -/
theorem laneOp_numericFlags (hop : FollowsFlagRule op) (sc : StatusContext) (imm8 : BitVec 8) (x : LaneArgs p)
    (hnan : ∀ v ∈ operandList op (daz sc x.a) (daz sc x.b) (daz sc x.c), isNaN v = false)
    (h : ¬ InvalidOperands op (daz sc x.a) (daz sc x.b) (daz sc x.c)) :
    NumericFlags op (operandList op (daz sc x.a) (daz sc x.b) (daz sc x.c)) (laneOp op sc imm8 x).flags := by
  obtain ⟨h1, h2, h3⟩ := hop
  obtain ⟨ha, hb, hc⟩ := forall_mem_operandList.1 hnan
  rw [isNaN_daz] at ha hb hc
  have hfma (hop : isFma op) (hb : isNaN x.b = false) (hc : isNaN x.c = false) :
      NumericFlags op (operandList op (daz sc x.a) (daz sc x.b) (daz sc x.c)) (laneOp op sc imm8 x).flags := by
    rw [laneOp_of_isFma hop, operandList_of_isFma hop]
    exact fmaCore_numericFlags sc hop ha hb hc h
  have hden (hfl : (laneOp op sc imm8 x).flags = denormalFlag (operandList op (daz sc x.a) (daz sc x.b) (daz sc x.c))) :
      NumericFlags op (operandList op (daz sc x.a) (daz sc x.b) (daz sc x.c)) (laneOp op sc imm8 x).flags :=
    hfl ▸ numericFlags_of_denormalFlag _ _
  cases op with
  | fpclass => exact absurd rfl h1
  | fixupimm => exact absurd rfl h2
  | rndscale => exact absurd rfl h3
  | fmadd | fmsub | fnmadd | fnmsub => exact hfma (by simp [isFma]) (hb rfl) (hc rfl)
  | add =>
    have hcore := addCore_numericFlags sc (op := .add) (.inl rfl) h
    rwa [← add_of_not_isNaN sc ha (hb rfl)] at hcore
  | sub =>
    have hcore := addCore_numericFlags sc (op := .sub) (a := daz sc x.a) (b := negLane (daz sc x.b)) (.inr rfl)
      (by simpa [InvalidOperands] using h)
    rw [← sub_of_not_isNaN sc ha (hb rfl), NumericFlags, denormalFlag_pair, isDenorm_negLane,
      ← denormalFlag_pair] at hcore
    exact hcore
  | mul => exact mul_numericFlags sc ha (hb rfl) h
  | div => exact div_numericFlags sc ha (hb rfl) h
  | scalef => exact scalef_numericFlags sc ha (hb rfl) h
  | sqrt => exact sqrt_numericFlags sc ha h
  | reduce => exact reduce_numericFlags sc imm8 ha
  | min =>
    refine hden ?_
    simp [laneOp, minLane, min, ha, hb rfl, operandList, Op.readsB, Op.readsC, denormalFlag]
  | max =>
    refine hden ?_
    simp [laneOp, maxLane, max, ha, hb rfl, operandList, Op.readsB, Op.readsC, denormalFlag]
  | range =>
    refine hden ?_
    simp [laneOp, rangeLane, range, ha, hb rfl, isSNaN_eq_false_of_not_isNaN, operandList, Op.readsB, Op.readsC,
      denormalFlag]
  | cmp =>
    refine hden ?_
    simp [laneOp, cmpLane, cmp, LaneResult.ofBit, ha, hb rfl, operandList, Op.readsB, Op.readsC, denormalFlag]
  | getexp => exact hden (getexp_flags sc ha)
  | getmant => exact hden (getmant_flags sc ha _ _)

/-- Every lane function but three follows the rule. -/
theorem laneOp_flagRule (hop : FollowsFlagRule op) (sc : StatusContext) (imm8 : BitVec 8) (x : LaneArgs p) :
    FlagRule op imm8 (daz sc x.a) (daz sc x.b) (daz sc x.c) (laneOp op sc imm8 x).flags := by
  by_cases hnan : ∃ v ∈ operandList op (daz sc x.a) (daz sc x.b) (daz sc x.c), isNaN v = true
  · obtain ⟨raised, h⟩ := laneOp_flags_of_isNaN hop sc imm8 x hnan
    exact .invalid raised (.inl hnan) h
  · have hnan' : ∀ v ∈ operandList op (daz sc x.a) (daz sc x.b) (daz sc x.c), isNaN v = false :=
      fun v hv => Bool.eq_false_of_not_eq_true fun h => hnan ⟨v, hv, h⟩
    by_cases hinv : InvalidOperands op (daz sc x.a) (daz sc x.b) (daz sc x.c)
    · exact .invalid true (.inr (raisesInvalid_of_invalidOperands imm8 hnan' hinv))
        (by rw [laneOp_invalid sc imm8 x hnan' hinv]; rfl)
    · exact .numeric hnan' (not_raisesInvalid hop imm8 hnan' hinv) (laneOp_numericFlags hop sc imm8 x hnan' hinv)

end Sys2Proof.Machine
end

section
/-! SUPPORT. The reported flags of a command by those of its active lanes, and the two statements about them of all eighty
instructions (40_numerics.md R114, 60_exceptions.md R302 to R307). -/

namespace Sys2Proof.Machine

variable {p : Prec} {op : Op} {form : Form} {f : Fields} {s : State} {fl : Flags} {imm8 : BitVec 8} {a b c : Lane p}

/-! ### What the rule says of one lane -/

theorem within_denormalFlag (l : List (Lane p)) : Within (denormalFlag l) flagD :=
  Within.flagIf (by decide : Within flagD flagD) _

theorem FlagRule.within (hop : FollowsFlagRule op) (h : FlagRule op imm8 a b c fl) : Within fl (possibleFlags op) := by
  have hID : Within (flagI ||| flagD) (possibleFlags op) := by
    obtain ⟨h1, h2, h3⟩ := hop
    cases op with
    | fpclass => exact absurd rfl h1
    | fixupimm => exact absurd rfl h2
    | rndscale => exact absurd rfl h3
    | add | sub | mul | div | min | max | sqrt | fmadd | fmsub | fnmadd | fnmsub | getexp | getmant | range | reduce
    | scalef | cmp => decide
  cases h with
  | invalid raised _ heq =>
    rw [heq]
    exact (Within.flagIf (by decide : Within flagI (flagI ||| flagD)) raised).mono hID
  | numeric _ _ hfl =>
    obtain ⟨e, he, heq⟩ := hfl
    rw [heq]
    refine (he.mono ?_).or (((within_denormalFlag _).mono (by decide)).mono hID)
    exact within_iff.2 fun j _ hj => by
      rw [BitVec.getLsbD_and, Bool.and_eq_true] at hj
      exact hj.1

theorem FlagRule.denormal_iff (hop : FollowsFlagRule op) (h : FlagRule op imm8 a b c fl) :
    fl.getLsbD 1 = true ↔ RaisesDenormal op imm8 a b c := by
  obtain ⟨h1, h2, h3⟩ := hop
  cases h with
  | invalid raised hinv heq =>
    have hbit : fl.getLsbD 1 = false := by
      rw [heq]
      cases raised <;> rfl
    rw [hbit]
    refine iff_of_false (by decide) fun ⟨_, _, _, hnan, hno, _⟩ => ?_
    rcases hinv with ⟨v, hv, hn⟩ | hinv
    · rw [hnan v hv] at hn
      cases hn
    · exact hno hinv
  | numeric hnan hno hfl =>
    obtain ⟨e, he, heq⟩ := hfl
    have hbit : e.getLsbD 1 = false := he.getLsbD_eq_false (by decide) (by
      rw [BitVec.getLsbD_and]
      exact Bool.and_false _)
    rw [heq, BitVec.getLsbD_or, hbit, Bool.false_or, getLsbD_denormalFlag]
    simp only [decide_true, Bool.true_and, List.any_eq_true]
    exact ⟨fun hd => ⟨h1, h2, h3, hnan, hno, hd⟩, fun ⟨_, _, _, _, _, hd⟩ => hd⟩

theorem rndscale_within (sc : StatusContext) (a : Lane p) (imm8 : BitVec 8) :
    Within (rndscale sc a imm8).flags (flagI ||| flagP) := by
  simp only [rndscale, roundToInt]
  split
  · exact Within.flagIf (by decide) _
  · split
    · exact within_zero _
    · exact Within.flagIf (by decide) _

theorem not_followsFlagRule_iff : ¬ FollowsFlagRule op ↔ op = .fpclass ∨ op = .fixupimm ∨ op = .rndscale := by
  simp [FollowsFlagRule, or_iff_not_imp_left]

/-- No lane function raises a flag its operation never raises. -/
theorem laneOp_within_possibleFlags (op : Op) (sc : StatusContext) (imm8 : BitVec 8) (x : LaneArgs p) :
    Within (laneOp op sc imm8 x).flags (possibleFlags op) := by
  by_cases hop : FollowsFlagRule op
  · exact (laneOp_flagRule hop sc imm8 x).within hop
  · rcases not_followsFlagRule_iff.1 hop with rfl | rfl | rfl
    · exact within_zero _
    · exact (Within.flagIf (by decide : Within flagI (flagI ||| flagZ)) _).or (Within.flagIf (by decide) _)
    · exact rndscale_within sc x.a imm8

/-- A lane function raises `D` exactly by the rule of 40_numerics.md R114. -/
theorem laneOp_denormal_iff (op : Op) (sc : StatusContext) (imm8 : BitVec 8) (x : LaneArgs p) :
    (laneOp op sc imm8 x).flags.getLsbD 1 = true ↔
      RaisesDenormal op imm8 (daz sc x.a) (daz sc x.b) (daz sc x.c) := by
  by_cases hop : FollowsFlagRule op
  · exact (laneOp_flagRule hop sc imm8 x).denormal_iff hop
  · have hbit : (possibleFlags op).getLsbD 1 = false := by
      rcases not_followsFlagRule_iff.1 hop with rfl | rfl | rfl <;> decide
    rw [(laneOp_within_possibleFlags op sc imm8 x).getLsbD_eq_false (by decide) hbit]
    exact iff_of_false (by decide) fun ⟨h1, h2, h3, _⟩ => hop ⟨h1, h2, h3⟩

/-! ### What a command reports of its lanes -/

/-- The context a command ends with reports the unsuppressed flags of its active lanes. -/
theorem endContext_reported {j : Nat} (hj : j < 6) :
    (endContext p form op f s).reported.getLsbD j = true ↔
      (commandContext op f s).suppressFlags.getLsbD j = false ∧
      ∃ n, ActiveLane p form f s n ∧ (laneResult p op f s n).flags.getLsbD j = true := by
  have hend : endContext p form op f s = loopContext s (overrideOf op f) f (form.loopLanes f.vl p)
      fun sc i => (laneOp op sc f.imm8 (s.laneArgs p i)).flags := by
    simp only [endContext, loopContext, buildContext_overrideOf, laneResult]
  rw [hend, (loopContext_reported s _ f _ _).2 j hj, buildContext_overrideOf]
  simp only [ActiveLane, laneResult, and_assoc]

theorem suppressFlags_commandContext (op : Op) (f : Fields) (s : State) :
    ∃ b, (commandContext op f s).suppressFlags = flagIf b flagP := by
  unfold commandContext
  split
  · exact ⟨_, suppressFlags_overridden f s⟩
  · exact ⟨false, rfl⟩

theorem finalFlags_within_reported (sc : StatusContext) : Within sc.finalFlags sc.reported := by
  refine within_iff.2 fun j _ hj => ?_
  rcases finalFlags_cases sc with ⟨-, h⟩ | ⟨-, h⟩
  · rw [h, BitVec.getLsbD_and, Bool.and_eq_true] at hj
    exact hj.1
  · rwa [h] at hj

/-- `D` is pre-computational, so merge-back never drops it (43_status_context.md R178). -/
theorem finalFlags_denormal (sc : StatusContext) : sc.finalFlags.getLsbD 1 = sc.reported.getLsbD 1 := by
  rcases finalFlags_cases sc with ⟨-, h⟩ | ⟨-, h⟩
  · rw [h, BitVec.getLsbD_and]
    exact Bool.and_true _
  · rw [h]

theorem daz_commandContext (op : Op) (f : Fields) (s : State) (v : Lane p) :
    daz (commandContext op f s) v = daz (ambient s) v := by
  rw [daz, commandContext_daz]
  rfl

/-! ### The statements -/

/-- Settles O24: the lanes raise `D` by the rule, nothing suppresses it, and merge-back keeps it. -/
theorem denormalExactlyWhen : Obligations.DenormalExactlyWhen := by
  intro op p form f s
  obtain ⟨t, ht, hans⟩ := exec_build_answer p form op f s
  obtain ⟨b, hsup⟩ := suppressFlags_commandContext op f s
  have hno : (flagIf b flagP).getLsbD 1 = false := by cases b <;> rfl
  refine ⟨t, ht, ?_⟩
  rw [hans.finalFlags_eq, finalFlags_denormal, endContext_reported (by decide), hsup]
  simp only [hno, true_and, laneResult, laneOp_denormal_iff, daz_commandContext]
  rfl

/-- Settles O26: what is reported was raised by an active lane. -/
theorem onlyPossibleFlags : Obligations.OnlyPossibleFlags := by
  intro i s
  obtain ⟨t, ht, hans⟩ := exec_build_answer i.prec i.form i.op i.fields s
  rw [build_parts] at ht
  refine ⟨t, ht, ?_⟩
  rw [hans.finalFlags_eq]
  refine (finalFlags_within_reported _).mono (within_iff.2 fun j hj hr => ?_)
  obtain ⟨-, n, -, hn⟩ := (endContext_reported hj).1 hr
  exact within_iff.1 (laneOp_within_possibleFlags i.op _ _ _) j hj hn

end Sys2Proof.Machine
end

section
/-! SUPPORT. MIN and MAX by the order of their flushed operands (41_arith.md R145, R146). -/

namespace Sys2Proof.Machine

variable {p : Prec}

section Selection

variable (sc : StatusContext) {a b : Lane p}

theorem min_of_isNaN (h : isNaN a = true ∨ isNaN b = true) : min sc a b = { val := daz sc b, flags := flagI } := by
  have hnan : (isNaN a || isNaN b) = true := by simpa using h
  simp [min, hnan]

theorem max_of_isNaN (h : isNaN a = true ∨ isNaN b = true) : max sc a b = { val := daz sc b, flags := flagI } := by
  have hnan : (isNaN a || isNaN b) = true := by simpa using h
  simp [max, hnan]

theorem min_of_not_isNaN (ha : isNaN a = false) (hb : isNaN b = false) :
    min sc a b =
      { val := if order (daz sc a) (daz sc b) = .lt then daz sc a else daz sc b
        flags := denormalFlag [daz sc a, daz sc b] } := by
  simp [min, ha, hb, denormalFlag_pair]

theorem max_of_not_isNaN (ha : isNaN a = false) (hb : isNaN b = false) :
    max sc a b =
      { val := if order (daz sc a) (daz sc b) = .gt then daz sc a else daz sc b
        flags := denormalFlag [daz sc a, daz sc b] } := by
  simp [max, ha, hb, denormalFlag_pair]

end Selection

/-- Settles O38: the lane functions test for a NaN first and then select by `order`, which is `Below`. -/
theorem minimumAndMaximum : Obligations.MinimumAndMaximum := by
  intro p form f s n hact a b
  have hmin {r : LaneOut p} (h : min (ambient s) (laneOf p s.a n) (laneOf p s.b n) = r) :
      LaneAnswers p (Instr.build f .min p form) s n r.val r.flags :=
    laneAnswers_ambient hact rfl rfl (congrArg LaneResult.ofValue h)
  have hmax {r : LaneOut p} (h : max (ambient s) (laneOf p s.a n) (laneOf p s.b n) = r) :
      LaneAnswers p (Instr.build f .max p form) s n r.val r.flags :=
    laneAnswers_ambient hact rfl rfl (congrArg LaneResult.ofValue h)
  have hna : isNaN (laneOf p s.a n) = isNaN a := (isNaN_daz _ _).symm
  have hnb : isNaN (laneOf p s.b n) = isNaN b := (isNaN_daz _ _).symm
  refine ⟨fun h => ?_, fun ha hb => ?_⟩
  · rw [← hna, ← hnb] at h
    exact ⟨hmin (min_of_isNaN _ h), hmax (max_of_isNaN _ h)⟩
  · have hlt : order a b = .lt ↔ Below a b := order_eq_lt_iff a b ha hb
    have hgt : order a b = .gt ↔ Below b a := order_eq_gt_iff a b ha hb
    have hmin' : LaneAnswers p (Instr.build f .min p form) s n (if order a b = .lt then a else b)
        (denormalFlag [a, b]) := hmin (min_of_not_isNaN _ (hna.trans ha) (hnb.trans hb))
    have hmax' : LaneAnswers p (Instr.build f .max p form) s n (if order a b = .gt then a else b)
        (denormalFlag [a, b]) := hmax (max_of_not_isNaN _ (hna.trans ha) (hnb.trans hb))
    refine ⟨fun h => ?_, fun h => ?_, fun h => ?_, fun h => ?_⟩
    · rwa [if_pos (hlt.2 h)] at hmin'
    · rwa [if_neg (mt hlt.1 h)] at hmin'
    · rwa [if_pos (hgt.2 h)] at hmax'
    · rwa [if_neg (mt hgt.1 h)] at hmax'

end Sys2Proof.Machine
end

section
/-! SUPPORT. The square root of a positive finite lane: it lies well inside the normal range, so that `round_pack` rounds it
to full precision (41_arith.md R147, 40_numerics.md R111, R112). -/

namespace Sys2Proof.Machine

variable {p : Prec} {v : Lane p}

/-! ### Positive lanes -/

theorem isZero_eq_false_of_valQ_pos (h : 0 < valQ v) : isZero v = false :=
  Bool.eq_false_of_not_eq_true fun hz => h.ne' ((valQ_eq_zero_iff v).2 hz)

theorem sign_eq_false_of_valQ_pos (h : 0 < valQ v) : sign v = false := by
  refine Bool.eq_false_of_not_eq_true fun hs => ?_
  rw [valQ, if_pos hs] at h
  exact absurd (magQ_nonneg v) (not_le.2 (neg_pos.1 h))

theorem valQ_cast_of_not_sign (h : sign v = false) : ((valQ v : ℚ) : ℝ) = magR v := by
  rw [valQ_cast, h, toward_false]

/-! ### The root of a magnitude -/

/-- Halving the exponent brings the magnitude of every finite lane but zero inside the normal range. -/
theorem sqrt_magR_bounds (hfin : isFinite v = true) (hz : isZero v = false) :
    (2 : ℝ) ^ p.emin ≤ √(magR v) ∧ √(magR v) < 2 ^ p.emax := by
  have hrange : 2 * p.emin ≤ p.unitExp ∧ p.emax + 1 ≤ 2 * p.emax := by cases p <;> decide
  have hunit := zpow_le_toReal_scaled hz p.unitExp
  rw [toReal_quot_one] at hunit
  exact ⟨zpow_le_sqrt ((zpow_le_zpow_right₀ one_le_two hrange.1).trans hunit),
    sqrt_lt_zpow ((magR_lt_zpow hfin).trans_le (zpow_le_zpow_right₀ one_le_two hrange.2))⟩

/-- Rounding leaves a square root as it is exactly when the answer's square is the operand. -/
theorem HoldsRounded.mul_self_eq_iff {d : Direction} {z : ℤ} {w : Lane p} (h : HoldsRounded d false z √(magR v) w)
    (hs : sign v = false) : valQ w * valQ w = valQ v ↔ roundAt d z √(magR v) = √(magR v) := by
  rw [← Rat.cast_inj (α := ℝ), Rat.cast_mul, valQ_cast_of_not_sign h.sign_eq, valQ_cast_of_not_sign hs, h.magR_eq,
    eq_comm, ← Real.sqrt_eq_iff_mul_self_eq (magR_nonneg v) roundAt_nonneg, eq_comm]

/-- The rounded root of a positive lane is the correctly rounded real root, and `P` is raised exactly when rounding changed
it. -/
theorem roundPack_root_spec (sc : StatusContext) (hfin : isFinite v = true) (hv : 0 < valQ v) :
    ∃ (w : Lane p) (inexact : Bool),
      roundPack sc false (.root (magUnits v) p.unitExp) = { val := w, flags := flagIf inexact flagP } ∧
      sign w = false ∧ RoundedTo sc.roundingMode w √((valQ v : ℚ) : ℝ) ∧
      (inexact = true ↔ valQ w * valQ w ≠ valQ v) := by
  have hs := sign_eq_false_of_valQ_pos hv
  obtain ⟨hmin, hmax⟩ := sqrt_magR_bounds hfin (isZero_eq_false_of_valQ_pos hv)
  have hpos : 0 < √(magR v) := lt_of_lt_of_le (by positivity) hmin
  have hnotover (d : Direction) : ¬ Reaches p d (p.emax + 1) √(magR v) :=
    not_reaches_of_lt (l := p.emax - 1) (by rwa [sub_add_cancel]) (by omega)
  obtain ⟨hlo, hhi⟩ := floorLog2_bounds (m := .root (magUnits v) p.unitExp) trivial hpos
  rcases roundPack_spec (p := p) (sc := sc) (s := false) (m := .root (magUnits v) p.unitExp) trivial hpos with
    ⟨hover, -⟩ | ⟨-, -, w, hw, hholds⟩ | ⟨htiny, -⟩
  · exact absurd hover (hnotover _)
  · refine ⟨w, _, hw, hholds.sign_eq, ?_, by rw [decide_eq_true_eq, ne_eq, ne_eq, hholds.mul_self_eq_iff hs]; rfl⟩
    rw [valQ_cast_of_not_sign hs]
    exact roundedTo_of_roundAt hpos.le rfl (.inr (le_floor_div_ulp hlo hhi)) hholds.finite hholds.sign_eq
      hholds.magR_eq hholds.even_of_even fun _ => lt_overflowThreshold_of_not_reaches (hnotover _)
  · exact absurd (reaches_of_le hmin le_rfl) htiny

theorem sqrt_of_valQ_pos (sc : StatusContext) {a : Lane p} (hfin : isFinite (daz sc a) = true)
    (hpos : 0 < valQ (daz sc a)) :
    sqrt sc a = (roundPack sc false (.root (magUnits (daz sc a)) p.unitExp)).raise (denormalFlag [daz sc a]) := by
  simp only [sqrt, isNaN_eq_false_of_isFinite hfin, isInf_eq_false_of_isFinite hfin, isZero_eq_false_of_valQ_pos hpos,
    sign_eq_false_of_valQ_pos hpos, denormalFlag_singleton, Bool.false_eq_true, if_false]

/-- Settles O37: the lane function rounds the root of the operand's magnitude, and rounding alone raises `P`. -/
theorem squareRootIsCorrectlyRounded : Obligations.SquareRootIsCorrectlyRounded := by
  intro p form f s n hact hfin hpos
  obtain ⟨w, inexact, hw, hsign, hround, hinexact⟩ := roundPack_root_spec (ambient s) hfin hpos
  have hlane : sqrt (ambient s) (laneOf p s.a n) =
      LaneOut.raise { val := w, flags := flagIf inexact flagP } (denormalFlag [operandA p s n]) :=
    (sqrt_of_valQ_pos (ambient s) hfin hpos).trans (congrArg (LaneOut.raise · _) hw)
  refine ⟨w, flagIf inexact flagP, ?_, hsign, hround, fun h => ?_, fun h => ?_⟩
  · rw [BitVec.or_comm]
    exact laneAnswers_ambient hact (op := .sqrt) rfl rfl (congrArg LaneResult.ofValue hlane)
  · rw [Bool.eq_false_of_not_eq_true fun hi => hinexact.1 hi h, flagIf_false]
  · rw [hinexact.2 h, flagIf_true]

end Sys2Proof.Machine
end

section
/-! SUPPORT. Infinite and zero operands that are valid: the lane functions answer `specialValue` before they round, with `D` for
a denormal operand and `Z` for a finite dividend other than zero over a zero (41_arith.md R141 to R144, R147; 42_fma.md R160;
48_round_reduce_scalef.md R266). -/

namespace Sys2Proof.Machine

variable {p : Prec} {op : Op} {a b c v : Lane p}

/-! ### The rules of the table for SUB and the fused operations -/

/-- SUB adds the negated operand. -/
theorem specialValue_sub : specialValue .sub a b c = specialValue .add a (negLane b) c := by
  have hb (h : isInf b = true) : negLane b = infinity (!sign b) :=
    (eq_infinity_iff _ _).2 ⟨(isInf_negLane b).trans h, sign_negLane b⟩
  simp only [specialValue, isInf_negLane]
  split
  next => rfl
  next =>
    split
    next h => rw [hb h]
    next => rfl

theorem invalidOperands_sub : InvalidOperands .sub a b c ↔ InvalidOperands .add a (negLane b) c := by
  simp [InvalidOperands]

theorem specialValue_of_isFma (hop : isFma op) :
    specialValue op a b c =
      if isInf a || isInf b then some (infinity (sign a ^^ sign b ^^ negatesProduct op))
      else if isInf c then some (infinity (sign c ^^ negatesAddend op))
      else none := by
  have hsigns := termSigns_of_isFma hop a b c
  rcases hop with rfl | rfl | rfl | rfl <;> simp only [specialValue, hsigns]

theorem invalidOperands_of_isFma (hop : isFma op) :
    InvalidOperands op a b c ↔
      (isZero a = true ∧ isInf b = true) ∨ (isInf a = true ∧ isZero b = true) ∨
      ((isInf a = true ∨ isInf b = true) ∧ isInf c = true ∧
        (sign a ^^ sign b ^^ negatesProduct op) ≠ (sign c ^^ negatesAddend op)) := by
  have hsigns := termSigns_of_isFma hop a b c
  rcases hop with rfl | rfl | rfl | rfl <;> simp only [InvalidOperands, hsigns]

/-! ### One lemma for each lane function -/

/-- A lane function that tests for the rows of the table in their order answers the row that applies. -/
theorem quietly_of_row {P Q : Prop} [Decidable P] [Decidable Q] {x y : Lane p} (r : LaneOut p)
    (h : (if P then some x else if Q then some y else none) = some v) :
    (if P then quietly x else if Q then quietly y else r) = quietly v := by
  split_ifs at h ⊢
  · rw [Option.some_inj.1 h]
  · rw [Option.some_inj.1 h]

theorem quietly_raise (v : Lane p) (fl : Flags) : (quietly v).raise fl = { val := v, flags := fl } := by
  simp [LaneOut.raise, quietly]

theorem isInf_eq_false_of_isZero (h : isZero v = true) : isInf v = false := by
  simp only [isZero, Bool.and_eq_true, beq_iff_eq] at h
  exact isInf_eq_false_of_isFinite (isFinite_of_expf_eq_zero h.1)

section LaneFunctions

variable (sc : StatusContext)

theorem addCore_special (hvalid : ¬ InvalidOperands .add a b c) (h : specialValue .add a b c = some v) :
    addCore sc a b = (quietly v).raise (denormalFlag [a, b]) := by
  have hinv : (isInf a && isInf b && sign a != sign b) = false := by
    rw [Bool.eq_false_iff]
    simpa [InvalidOperands, and_assoc] using hvalid
  rw [addCore, hinv, if_neg Bool.false_ne_true, ← denormalFlag_pair, quietly_of_row _ h]

theorem fmaCore_special (hop : isFma op) (ha : isNaN a = false) (hb : isNaN b = false) (hc : isNaN c = false)
    (hvalid : ¬ InvalidOperands op (daz sc a) (daz sc b) (daz sc c))
    (h : specialValue op (daz sc a) (daz sc b) (daz sc c) = some v) :
    fmaCore sc a b c (negatesProduct op) (negatesAddend op) =
      (quietly v).raise (denormalFlag [daz sc a, daz sc b, daz sc c]) := by
  rw [invalidOperands_of_isFma hop] at hvalid
  rw [specialValue_of_isFma hop] at h
  have hprod : ¬ (isInf (daz sc a) && isZero (daz sc b) || isZero (daz sc a) && isInf (daz sc b)) = true := by
    simp only [Bool.or_eq_true, Bool.and_eq_true]
    tauto
  have hsum : ¬ ((isInf (daz sc a) || isInf (daz sc b)) && isInf (daz sc c) &&
      (sign (daz sc a) ^^ sign (daz sc b) ^^ negatesProduct op) != (sign (daz sc c) ^^ negatesAddend op)) = true := by
    simp only [Bool.and_eq_true, Bool.or_eq_true, bne_iff_ne]
    tauto
  simp only [fmaCore, isNaN_daz, ha, hb, hc, Bool.or_self, Bool.false_eq_true, if_false]
  rw [if_neg hprod, if_neg hsum, ← denormalFlag_triple, quietly_of_row _ h]

theorem sqrt_special (ha : isNaN a = false) (hvalid : ¬ InvalidOperands .sqrt (daz sc a) b c)
    (h : specialValue .sqrt (daz sc a) b c = some v) :
    sqrt sc a = (quietly v).raise (denormalFlag [daz sc a]) := by
  simp only [sqrt, isNaN_daz, ha, Bool.false_eq_true, if_false]
  simp only [specialValue, Bool.or_eq_true] at h
  generalize daz sc a = a at *
  split at h
  next hrow =>
    obtain rfl : a = v := Option.some_inj.1 h
    cases hz : isZero a with
    | true =>
      rw [denormalFlag_singleton, isDenorm_eq_false_of_isZero hz, if_pos rfl, flagIf_false, quietly_raise]
      rfl
    | false =>
      have hinf : isInf a = true := hrow.resolve_left (by simp [hz])
      have hs : ¬ sign a = true := fun hs => hvalid ⟨hs, hz⟩
      rw [if_neg Bool.false_ne_true, if_neg hs, if_pos hinf, ← denormalFlag_singleton]
  next => cases h

section TwoOperands

variable (ha : isNaN a = false) (hb : isNaN b = false)
include ha hb

theorem mul_special (hvalid : ¬ InvalidOperands .mul (daz sc a) (daz sc b) c)
    (h : specialValue .mul (daz sc a) (daz sc b) c = some v) :
    mul sc a b = (quietly v).raise (denormalFlag [daz sc a, daz sc b]) := by
  have hinv : (isInf (daz sc a) && isZero (daz sc b) || isZero (daz sc a) && isInf (daz sc b)) = false := by
    rw [Bool.eq_false_iff]
    simpa [InvalidOperands, or_comm] using hvalid
  have hxor (s t : Bool) : (s != t) = (s ^^ t) := rfl
  simp only [specialValue, hxor] at h
  simp only [mul, isNaN_daz, ha, hb, hinv, Bool.or_self, Bool.false_eq_true, if_false]
  rw [← denormalFlag_pair, quietly_of_row _ h]

/-- Of the rows of DIV only the one of a zero divisor raises a flag. -/
theorem div_special (hvalid : ¬ InvalidOperands .div (daz sc a) (daz sc b) c)
    (h : specialValue .div (daz sc a) (daz sc b) c = some v) :
    div sc a b =
      LaneOut.raise
        { val := v
          flags := flagIf (isFinite (daz sc a) && !isZero (daz sc a) && isZero (daz sc b)) flagZ }
        (denormalFlag [daz sc a, daz sc b]) := by
  have hinv : (isInf (daz sc a) && isInf (daz sc b) || isZero (daz sc a) && isZero (daz sc b)) = false := by
    rw [Bool.eq_false_iff]
    simpa [InvalidOperands, and_comm] using hvalid
  have hfin : isFinite (daz sc a) = !isInf (daz sc a) := isFinite_eq_not_isInf _ (by rw [isNaN_daz, ha])
  simp only [div, isNaN_daz, ha, hb, hinv, Bool.or_self, Bool.false_eq_true, if_false]
  rw [← denormalFlag_pair, hfin]
  congr 1
  generalize daz sc a = a, daz sc b = b at *
  simp only [specialValue] at h
  cases hia : isInf a with
  | true =>
    simp only [hia, Bool.true_or, if_true, Option.some_inj] at h
    rw [← h]
    rfl
  | false =>
    cases hzb : isZero b with
    | true =>
      have hza : isZero a = false := by simpa [hia, hzb] using hinv
      simp only [hia, hzb, Bool.false_or, if_true, Option.some_inj] at h
      simp [hza, isInf_eq_false_of_isZero hzb, ← h]
    | false =>
      simp only [hia, hzb, Bool.false_or, Bool.or_eq_true, Bool.false_eq_true, if_false, Bool.and_false,
        flagIf_false] at h ⊢
      split at h
      next hrow =>
        rw [← Option.some_inj.1 h]
        split_ifs with hib hza
        · rfl
        · rfl
        · exact absurd hrow (by simp [hib, hza])
      next => cases h

theorem scalef_special (hvalid : ¬ InvalidOperands .scalef (daz sc a) (daz sc b) c)
    (h : specialValue .scalef (daz sc a) (daz sc b) c = some v) :
    scalef sc a b = (quietly v).raise (denormalFlag [daz sc a, daz sc b]) := by
  simp only [InvalidOperands, eq_infinity_iff, not_or, not_and] at hvalid
  simp only [specialValue, eq_infinity_iff] at h
  simp only [scalef, isNaN_daz, ha, hb, Bool.or_self, Bool.false_eq_true, if_false]
  generalize daz sc a = a, daz sc b = b at *
  obtain ⟨hpos, hneg⟩ := hvalid
  cases hib : isInf b with
  | false =>
    simp only [hib, Bool.false_and, Bool.false_eq_true, false_and, if_false] at h ⊢
    rw [← denormalFlag_pair]
    split_ifs at h ⊢
    rw [Option.some_inj.1 h]
  | true =>
    rw [denormalFlag_pair_of_isInf _ hib]
    cases hs : sign b with
    | false =>
      have hz : ¬ isZero a = true := fun hz => hpos hz hib hs
      simp only [hib, hs, true_and, if_true, Option.some_inj] at h
      simp [hz, ← h, quietly_raise]
    | true =>
      have hi : ¬ isInf a = true := fun hi => hneg hi hib hs
      simp only [hib, hs, true_and, if_true, Option.some_inj, Bool.true_eq_false, if_false] at h
      simp [hi, ← h, quietly_raise]

end TwoOperands

end LaneFunctions

/-! ### The statement -/

/-- The lane function of an operation on special operands that are neither NaN nor invalid. -/
theorem laneOp_special (sc : StatusContext) (imm8 : BitVec 8) (x : LaneArgs p)
    (hnan : ∀ y ∈ operandList op (daz sc x.a) (daz sc x.b) (daz sc x.c), isNaN y = false)
    (hvalid : ¬ InvalidOperands op (daz sc x.a) (daz sc x.b) (daz sc x.c))
    (h : specialValue op (daz sc x.a) (daz sc x.b) (daz sc x.c) = some v) :
    laneOp op sc imm8 x =
      .ofValue (LaneOut.raise
        { val := v
          flags := flagIf (op = .div && (isFinite (daz sc x.a) && !isZero (daz sc x.a) && isZero (daz sc x.b))) flagZ }
        (denormalFlag (operandList op (daz sc x.a) (daz sc x.b) (daz sc x.c)))) := by
  obtain ⟨ha, hb, hc⟩ := forall_mem_operandList.1 hnan
  rw [isNaN_daz] at ha hb hc
  have hfma (hop : isFma op) (hb : isNaN x.b = false) (hc : isNaN x.c = false) : laneOp op sc imm8 x =
      .ofValue ((quietly v).raise (denormalFlag (operandList op (daz sc x.a) (daz sc x.b) (daz sc x.c)))) := by
    rw [laneOp_of_isFma hop, operandList_of_isFma hop, fmaCore_special sc hop ha hb hc hvalid h]
  cases op with
  | min | max | fixupimm | fpclass | getexp | getmant | range | reduce | rndscale | cmp => cases h
  | fmadd | fmsub | fnmadd | fnmsub => exact hfma (by simp [isFma]) (hb rfl) (hc rfl)
  | add => exact congrArg LaneResult.ofValue ((add_of_not_isNaN sc ha (hb rfl)).trans (addCore_special sc hvalid h))
  | sub =>
    have hcore := addCore_special sc (mt invalidOperands_sub.2 hvalid) (specialValue_sub.symm.trans h)
    rw [denormalFlag_pair, isDenorm_negLane, ← denormalFlag_pair] at hcore
    exact congrArg LaneResult.ofValue ((sub_of_not_isNaN sc ha (hb rfl)).trans hcore)
  | mul => exact congrArg LaneResult.ofValue (mul_special sc ha (hb rfl) hvalid h)
  | div => exact congrArg LaneResult.ofValue (div_special sc ha (hb rfl) hvalid h)
  | sqrt => exact congrArg LaneResult.ofValue (sqrt_special sc ha hvalid h)
  | scalef => exact congrArg LaneResult.ofValue (scalef_special sc ha (hb rfl) hvalid h)

/-- No operation with an override or a mask result has a special value. -/
theorem overrideOf_of_specialValue (h : specialValue op a b c = some v) (f : Fields) :
    op.isMask = false ∧ overrideOf op f = none := by
  cases op with
  | min | max | fixupimm | fpclass | getexp | getmant | range | reduce | rndscale | cmp => cases h
  | add | sub | mul | div | sqrt | fmadd | fmsub | fnmadd | fnmsub | scalef => exact ⟨rfl, rfl⟩

/-- Settles O31: the row of the table that applies, with the flags of the operands. -/
theorem specialOperands : Obligations.SpecialOperands := by
  intro p form f s n op v hact hnan hvalid h
  obtain ⟨hm, ho⟩ := overrideOf_of_specialValue h f
  rw [BitVec.or_comm]
  exact laneAnswers_ambient hact hm ho (laneOp_special (ambient s) f.imm8 (s.laneArgs p n) hnan hvalid h)

end Sys2Proof.Machine
end

section
/-! SUPPORT. The status context, bit by bit: what it is built from, what the override changes, and what merge-back reports of
it (43_status_context.md R171 to R178). -/

namespace Sys2Proof.Machine

variable {sc : StatusContext} {fl m : Flags} {j : Nat}

/-! ### Building and overriding (43_status_context.md R171 to R174) -/

/-- The code of the mode a code names is the code: no code is reserved. -/
@[simp] theorem code_ofCode (c : BitVec 2) : (RoundingMode.ofCode c).code = c := by
  revert c
  decide

theorem getLsbD_flagIf_flagP (b : Bool) (j : Nat) : (flagIf b flagP).getLsbD j = (decide (j = 5) && b) := by
  have hP : flagP = BitVec.twoPow 6 5 := rfl
  cases b with
  | false => simp
  | true => simp [hP, BitVec.getLsbD_twoPow, eq_comm]

theorem roundingMode_applyRoundingOverride (sc : StatusContext) (imm8 : BitVec 8) :
    (sc.applyRoundingOverride imm8).roundingMode =
      if imm8.getLsbD 2 then sc.roundingMode else RoundingMode.ofCode (imm8.extractLsb' 0 2) := rfl

/-- Settles O7: each field is its slice of CTRL by definition, the mode by its code. -/
theorem contextOfTheControlRegister : Obligations.ContextOfTheControlRegister :=
  fun _ => ⟨code_ofCode _, rfl, rfl, rfl, rfl, rfl⟩

/-- Settles O8: the two fields the override writes, each by its bit of the immediate byte. -/
theorem roundingOverride : Obligations.RoundingOverride := by
  intro sc imm8
  refine ⟨fun h => ?_, fun h => ?_, fun j => ?_, rfl, rfl, rfl, rfl⟩
  · rw [roundingMode_applyRoundingOverride, h, if_neg Bool.false_ne_true, code_ofCode]
  · rw [roundingMode_applyRoundingOverride, h, if_pos rfl]
  · rw [← getLsbD_flagIf_flagP, ← BitVec.getLsbD_or]
    rfl

/-! ### Merging back (43_status_context.md R176, R178) -/

theorem getLsbD_preComputational (j : Nat) : preComputational.getLsbD j = decide (j < 3) := by
  by_cases hj : j < 6
  · interval_cases j <;> rfl
  · rw [BitVec.getLsbD_of_ge _ _ (not_lt.1 hj), decide_eq_false (by omega)]

/-- A flag that merge-back starts from was raised and is not suppressed. -/
theorem getLsbD_reported (hj : j < 6) :
    sc.reported.getLsbD j = true ↔ sc.stickyFlags.getLsbD j = true ∧ sc.suppressFlags.getLsbD j = false := by
  have hall : reportable.getLsbD j = true := by interval_cases j <;> rfl
  simp [StatusContext.reported, hall, hj]

/-- Nothing is dropped from the report when every flag of the pre-computational class in it is masked. -/
theorem unmasked_preComputational_eq_zero_iff :
    fl &&& ~~~m &&& preComputational = 0#6 ↔ ∀ k < 3, fl.getLsbD k = true → m.getLsbD k = true := by
  have hcomm : fl &&& ~~~m &&& preComputational = fl &&& preComputational &&& ~~~m := by ac_rfl
  rw [hcomm]
  refine within_iff.trans ⟨fun h k hk hf => h k (by omega) ?_, fun h k _ hf => ?_⟩
  · rw [BitVec.getLsbD_and, hf, getLsbD_preComputational, decide_eq_true hk, Bool.and_self]
  · rw [BitVec.getLsbD_and, Bool.and_eq_true, getLsbD_preComputational, decide_eq_true_eq] at hf
    obtain ⟨hf, hk⟩ := hf
    exact h k hk hf

/-- A flag is reported unless it is post-computational and one of the pre-computational class is unmasked. -/
theorem getLsbD_reportedFlags :
    (reportedFlags m fl).getLsbD j = true ↔
      fl.getLsbD j = true ∧ (j < 3 ∨ ∀ k < 3, fl.getLsbD k = true → m.getLsbD k = true) := by
  rw [← unmasked_preComputational_eq_zero_iff, reportedFlags]
  split
  case isTrue h => simp [h]
  case isFalse h => simp [h, getLsbD_preComputational]

/-- Settles O9: `final_flags` is `reportedFlags` of the raised, unsuppressed flags, and the mask test is a bit of it. -/
theorem mergeBack : Obligations.MergeBack := by
  intro sc j hj
  constructor
  · rw [finalFlags_eq_reportedFlags, getLsbD_reportedFlags, getLsbD_reported hj, and_assoc]
    refine and_congr_right fun _ => and_congr_right fun _ => or_congr_right (forall₂_congr fun k hk => ?_)
    rw [getLsbD_reported (by omega), and_imp]
  · have hmasked : sc.shouldFault = true ↔ ¬ Within sc.finalFlags sc.exceptionMasks := decide_eq_true_iff
    rw [hmasked, within_iff]
    push Not
    simp only [ne_eq, Bool.not_eq_true]

end Sys2Proof.Machine
end

section
/-! SUPPORT. Every answer of a command is a consistent response, and a step without a command keeps the one that is there
(43_status_context.md R176, R178, R179; 60_exceptions.md R310). -/

namespace Sys2Proof.Machine

variable {p : Prec} {form : Form} {op : Op} {f : Fields} {s t : State}

/-! ### What a command's context and its write-back keep -/

theorem exceptionMasks_commandContext (op : Op) (f : Fields) (s : State) :
    (commandContext op f s).exceptionMasks = ctrlMasks s.ctrl := by
  unfold commandContext
  split <;> rfl

/-- No lane changes the masks. -/
theorem exceptionMasks_endContext (p : Prec) (form : Form) (op : Op) (f : Fields) (s : State) :
    (endContext p form op f s).exceptionMasks = ctrlMasks s.ctrl := by
  rw [endContext, accumulate_eq]
  exact exceptionMasks_commandContext op f s

@[simp] theorem ctrlMasks_mergedCtrl (c : CtrlWord) (fl : Flags) : ctrlMasks (mergedCtrl c fl) = ctrlMasks c :=
  extractLsb'_eq_of_high_eq (extractLsb'_mergedCtrl c fl) (by decide) (by decide)

/-- Flags with others joined in still hold the flags. -/
theorem and_or_self_right (x y : Flags) : y &&& (x ||| y) = y := by
  apply BitVec.eq_of_getLsbD_eq
  intro j _
  rw [BitVec.getLsbD_and, BitVec.getLsbD_or, Bool.and_eq_left_iff_imp]
  intro h
  rw [h, Bool.or_true]

/-- An unmasked pre-computational flag is reported with no post-computational one (43_status_context.md R178). -/
theorem finalFlags_and_preComputational {sc : StatusContext}
    (h : sc.finalFlags &&& ~~~sc.exceptionMasks &&& preComputational ≠ 0#6) :
    sc.finalFlags &&& preComputational = sc.finalFlags := by
  rcases finalFlags_cases sc with ⟨-, hff⟩ | ⟨hmasked, hff⟩
  · rw [hff, BitVec.and_assoc, BitVec.and_self]
  · rw [hff] at h
    exact absurd hmasked h

/-! ### The invariant -/

theorem CommandAnswer.masks_ctrlOut (h : CommandAnswer p form op f s t) :
    ctrlMasks t.ctrlOut = (endContext p form op f s).exceptionMasks := by
  rw [h.ctrlOut_eq, ctrlMasks_mergedCtrl, exceptionMasks_endContext]

theorem CommandAnswer.responseConsistent (h : CommandAnswer p form op f s t) : ResponseConsistent t := by
  refine ⟨?_, ?_, ?_⟩
  · rw [h.fault_eq, h.finalFlags_eq, h.masks_ctrlOut, StatusContext.shouldFault]
  · rw [h.finalFlags_eq, h.ctrlOut_eq, ctrlFlags_mergedCtrl, and_or_self_right]
  · rw [h.finalFlags_eq, h.masks_ctrlOut]
    exact finalFlags_and_preComputational

/-- All a step that answers a next state can do: it waits, or it gives the answer of the decoded instruction. -/
theorem step_next_cases (h : step s = .next t) :
    (s.cmd = none ∧ t = s) ∨
      ∃ w i, s.cmd = some w ∧ decode w = .ok i ∧ CommandAnswer i.prec i.form i.op i.fields s t := by
  unfold step State.fetch at h
  cases hw : s.cmd with
  | none =>
    rw [hw] at h
    cases h
    exact .inl ⟨rfl, rfl⟩
  | some w =>
    simp only [hw] at h
    cases hd : decode w with
    | error why =>
      rw [hd] at h
      cases h
    | ok i =>
      rw [hd] at h
      exact .inr ⟨w, i, rfl, hd, commandAnswer_of_exec h⟩

/-- Settles O55: a waiting step leaves the response that is there, and the answer of a command is consistent. -/
theorem stepKeepsResponseConsistent : Obligations.StepKeepsResponseConsistent := by
  intro s t hs h
  rcases step_next_cases h with ⟨-, rfl⟩ | ⟨_, _, -, -, hans⟩
  · exact hs
  · exact hans.responseConsistent

end Sys2Proof.Machine
end

section
/-! SUPPORT. The rounding override as a change of the ambient mode: a command that keeps the mode in force, under a control
register that holds the mode the override names, runs its lanes in the same context (43_status_context.md R174, R175). -/

namespace Sys2Proof.Machine

variable {p : Prec} {form : Form} {op : Op} {f : Fields} {s : State}

/-! ### The rounding mode in the control register (10_state.md R24) -/

theorem getLsbD_mergedCtrl (c : CtrlWord) (fl : Flags) {j : Nat} (hj : j < 16) :
    (mergedCtrl c fl).getLsbD j = (c.getLsbD j || fl.getLsbD j) := by
  rw [mergedCtrl, BitVec.getLsbD_append]
  split
  case isTrue h => simp [ctrlFlags, h]
  case isFalse h => simp [show j - 6 < 10 by omega, Nat.add_sub_cancel' (not_lt.1 h), not_lt.1 h]

theorem getLsbD_withRc (c : CtrlWord) (rm : RoundingMode) {j : Nat} (hj : j < 16) :
    (withRc c rm).getLsbD j = if j = 13 ∨ j = 14 then rm.code.getLsbD (j - 13) else c.getLsbD j := by
  rw [withRc, BitVec.getLsbD_append, BitVec.getLsbD_append]
  interval_cases j <;> simp

/-- The mode put back after the flags are merged, CTRL is what the merge alone makes of it. -/
theorem withRc_mergedCtrl_withRc (c : CtrlWord) (rm : RoundingMode) (fl : Flags) :
    withRc (mergedCtrl (withRc c rm) fl) (RoundingMode.ofCode (ctrlRc c)) = mergedCtrl c fl := by
  apply BitVec.eq_of_getLsbD_eq
  intro j hj
  rw [getLsbD_withRc _ _ hj, getLsbD_mergedCtrl _ _ hj, getLsbD_mergedCtrl _ _ hj, getLsbD_withRc _ _ hj, code_ofCode]
  split
  case isTrue h => rcases h with rfl | rfl <;> simp [ctrlRc]
  case isFalse h => rfl

/-! ### The command without the override -/

/-- The command that keeps the mode in force (30_encoding.md R81, `imm8[2] = 1`). -/
def keepMode (f : Fields) : Fields := { f with imm8 := f.imm8 ||| 4#8 }

/-- The state with the mode of a command's override in the control register. -/
def withModeOf (f : Fields) (s : State) : State := { s with ctrl := withRc s.ctrl (overridden f s).roundingMode }

theorem commandContext_eq_overridden (hop : op = .rndscale ∨ op = .reduce) (f : Fields) (s : State) :
    commandContext op f s = overridden f s := if_pos hop.symm

theorem overridden_keepMode (f : Fields) (s : State) : overridden (keepMode f) (withModeOf f s) = overridden f s := by
  have hmode : (f.imm8 ||| 4#8).getLsbD 2 = true := by rw [BitVec.getLsbD_or]; exact Bool.or_true _
  have hsup : (f.imm8 ||| 4#8).getLsbD 3 = f.imm8.getLsbD 3 := by rw [BitVec.getLsbD_or]; exact Bool.or_false _
  simp only [overridden, ambient, keepMode, withModeOf, fromControlRegister_withRc, StatusContext.applyRoundingOverride,
    hmode, hsup, if_true]

theorem commandContext_keepMode (hop : op = .rndscale ∨ op = .reduce) :
    commandContext op (keepMode f) (withModeOf f s) = commandContext op f s := by
  rw [commandContext_eq_overridden hop, commandContext_eq_overridden hop, overridden_keepMode]

/-- Of the immediate byte a lane reads the scale alone, which lies above the bit of the override. -/
theorem laneOp_keepMode (hop : op = .rndscale ∨ op = .reduce) (sc : StatusContext) (x : LaneArgs p) :
    laneOp op sc (keepMode f).imm8 x = laneOp op sc f.imm8 x := by
  have hscale : immScale (f.imm8 ||| 4#8) = immScale f.imm8 := by
    rw [immScale, BitVec.extractLsb'_or]
    exact congrArg BitVec.toNat BitVec.or_zero
  rcases hop with rfl | rfl <;> simp only [laneOp, rndscaleLane, rndscale, reduceLane, reduce, keepMode, hscale]

theorem laneResult_keepMode (hop : op = .rndscale ∨ op = .reduce) (n : Nat) :
    laneResult p op (keepMode f) (withModeOf f s) n = laneResult p op f s n := by
  rw [laneResult, laneOp_keepMode hop, commandContext_keepMode hop]
  rfl

theorem endContext_keepMode (hop : op = .rndscale ∨ op = .reduce) :
    endContext p form op (keepMode f) (withModeOf f s) = endContext p form op f s := by
  rw [endContext, commandContext_keepMode hop]
  exact accumulate_congr _ fun n _ => by rw [laneResult_keepMode hop]; rfl

theorem resultLane_keepMode (hop : op = .rndscale ∨ op = .reduce) :
    resultLane p op (keepMode f) (withModeOf f s) = resultLane p op f s := by
  funext n
  rw [resultLane, laneResult_keepMode hop]
  rfl

/-- Settles O53: both commands end their lane loop with one context and one result, and differ in the mode that CTRL_OUT
keeps. -/
theorem overrideActsAsAmbientMode : Obligations.OverrideActsAsAmbientMode := by
  intro p form f s op hop _
  have hm : op.isMask = false := by rcases hop with rfl | rfl <;> rfl
  obtain ⟨t, ht, hs⟩ := exec_build_answer p form op f s
  obtain ⟨u, hu, hk⟩ := exec_build_answer p form op (keepMode f) (withModeOf f s)
  have hend := endContext_keepMode (p := p) (form := form) (f := f) (s := s) hop
  have hfault : t.fault = u.fault := by rw [hs.fault_eq, hk.fault_eq, hend]
  refine ⟨t, u, ht, hu, ?_, hfault, fun hno => ?_, ?_⟩
  · rw [hs.finalFlags_eq, hk.finalFlags_eq, hend]
  · rw [hs.result_eq hm hno, hk.result_eq hm (hfault ▸ hno), resultLane_keepMode hop]
    rfl
  · rw [hs.ctrlOut_eq, hk.ctrlOut_eq, hend]
    exact (withRc_mergedCtrl_withRc _ _ _).symm

end Sys2Proof.Machine
end

section
/-! SUPPORT. RNDSCALE and REDUCE of an inexact lane: `P` is raised exactly off the grid, the suppressed `P` never reaches the
mask test, and the unsuppressed one does (48_round_reduce_scalef.md R262 to R264, 43_status_context.md R176). -/

namespace Sys2Proof.Machine

variable {p : Prec} {form : Form} {op : Op} {f : Fields} {s : State} {n : Nat} {sc : StatusContext} {imm8 : BitVec 8}

/-! ### Nothing reported -/

theorem reportedFlags_zero (m : Flags) : reportedFlags m 0#6 = 0#6 := by
  rw [reportedFlags, BitVec.zero_and, BitVec.zero_and, if_pos rfl]

theorem mergedCtrl_zero (c : CtrlWord) : mergedCtrl c 0#6 = c := by
  apply BitVec.eq_of_getLsbD_eq
  intro j hj
  rw [getLsbD_mergedCtrl _ _ hj, BitVec.getLsbD_zero, Bool.or_false]

/-- A command whose lanes leave nothing to report answers without a fault and with CTRL as it is. -/
theorem CommandAnswer.silent {t : State} (h : CommandAnswer p form op f s t)
    (hr : (endContext p form op f s).reported = 0#6) : t.fault = false ∧ t.finalFlags = 0#6 ∧ t.ctrlOut = s.ctrl := by
  have hff : (endContext p form op f s).finalFlags = 0#6 := by
    rw [finalFlags_eq_reportedFlags, hr, reportedFlags_zero]
  refine ⟨?_, ?_, ?_⟩
  · rw [h.fault_eq, shouldFault_eq, hr, BitVec.zero_and]
    rfl
  · rw [h.finalFlags_eq, hff]
  · rw [h.ctrlOut_eq, hff, mergedCtrl_zero]

/-! ### `P` suppressed (43_status_context.md R174) -/

theorem suppressFlags_commandContext_override (hop : op = .rndscale ∨ op = .reduce) (f : Fields) (s : State) :
    (commandContext op f s).suppressFlags = flagIf (f.imm8.getLsbD 3) flagP := by
  rw [commandContext_eq_overridden hop, suppressFlags_overridden]

/-- Without a signaling NaN RNDSCALE can raise `P` alone. -/
theorem rndscale_within_of_not_isSNaN (sc : StatusContext) {a : Lane p} (imm8 : BitVec 8) (h : isSNaN a = false) :
    Within (rndscale sc a imm8).flags flagP := by
  simp only [rndscale, roundToInt]
  split
  · rw [prop1_flags, h]
    exact within_zero _
  · split
    · exact within_zero _
    · exact Within.flagIf (by decide) _

theorem rndscale_reported_eq_zero (hsup : f.imm8.getLsbD 3 = true)
    (hnan : ∀ n, ActiveLane p form f s n → isSNaN (laneOf p s.a n) = false) :
    (endContext p form .rndscale f s).reported = 0#6 := by
  apply BitVec.eq_of_getLsbD_eq
  intro j hj
  rw [BitVec.getLsbD_zero]
  refine Bool.eq_false_of_not_eq_true fun hr => ?_
  obtain ⟨hno, n, hact, hfl⟩ := (endContext_reported hj).1 hr
  have hP : flagP.getLsbD j = true := within_iff.1 (rndscale_within_of_not_isSNaN _ _ (hnan n hact)) j hj hfl
  rw [suppressFlags_commandContext_override (.inl rfl), hsup, flagIf_true, hP] at hno
  cases hno

theorem getLsbD_finalFlags_of_suppressed (hop : op = .rndscale ∨ op = .reduce) (hsup : f.imm8.getLsbD 3 = true) :
    (endContext p form op f s).finalFlags.getLsbD 5 = false := by
  refine Bool.eq_false_of_not_eq_true fun hff => ?_
  obtain ⟨hno, -⟩ := (endContext_reported (by decide)).1
    (within_iff.1 (finalFlags_within_reported _) 5 (by decide) hff)
  rw [suppressFlags_commandContext_override hop, hsup] at hno
  cases hno

/-! ### `P` raised -/

/-- A lane that its rounding to a multiple of `2^-m` leaves alone is a multiple of `2^-m`. -/
theorem exists_multiple_of_roundAt_eq {d : Direction} {m : ℕ} {t : Lane p}
    (h : roundAt d (-m) (magR t) = magR t) : ∃ k : ℤ, valQ t = (k : ℚ) / (2 : ℚ) ^ m := by
  obtain ⟨j, hj⟩ := (roundAt_eq_iff _ _ _).1 h
  have habs : ((|valQ t| : ℚ) : ℝ) = j * 2 ^ (-m : ℤ) := by
    rw [Rat.cast_abs, abs_valQ_cast, hj]
  obtain ⟨k, -, hk⟩ := (exists_int_mul_zpow_iff (valQ t) (-m) fun _ => True).2 ⟨j, trivial, habs⟩
  exact ⟨k, by rw [hk, zpow_neg, zpow_natCast, div_eq_mul_inv]⟩

/-- Off the grid either operation raises `P` (48_round_reduce_scalef.md R261, R264). -/
theorem laneOp_inexact (hop : op = .rndscale ∨ op = .reduce) (x : LaneArgs p) (hfin : isFinite (daz sc x.a) = true)
    (hoff : ¬ ∃ k : ℤ, valQ (daz sc x.a) = (k : ℚ) / (2 : ℚ) ^ immScale imm8) :
    (laneOp op sc imm8 x).flags.getLsbD 5 = true := by
  have hne (d : Direction) : decide (roundAt d (-immScale imm8) (magR (daz sc x.a)) ≠ magR (daz sc x.a)) = true :=
    decide_eq_true fun h => hoff (exists_multiple_of_roundAt_eq h)
  rcases hop with rfl | rfl
  · obtain ⟨v, -, hround⟩ := roundToInt_of_isFinite sc (immScale_le imm8) hfin
    rw [hne] at hround
    change (roundToInt sc x.a (immScale imm8)).flags.getLsbD 5 = true
    rw [hround]
    exact getLsbD_flagIf_flagP true 5
  · obtain ⟨v, -, hred⟩ := reduce_of_isFinite sc imm8 hfin
    rw [hne] at hred
    change (reduce sc x.a imm8).flags.getLsbD 5 = true
    rw [hred, raise_flags, BitVec.getLsbD_or]
    exact Bool.or_true _

/-- The unsuppressed `P` of an active lane, in what the lane answers. -/
theorem laneResult_inexact (hop : op = .rndscale ∨ op = .reduce) (hsup : f.imm8.getLsbD 3 = false)
    (hfin : isFinite (operandA p s n) = true)
    (hoff : ¬ ∃ k : ℤ, valQ (operandA p s n) = (k : ℚ) / (2 : ℚ) ^ immScale f.imm8) :
    ((laneResult p op f s n).flags &&& ~~~(commandContext op f s).suppressFlags).getLsbD 5 = true := by
  have hdaz : daz (commandContext op f s) (s.laneArgs p n).a = operandA p s n := daz_commandContext op f s _
  rw [suppressFlags_commandContext_override hop, hsup, flagIf_false, BitVec.not_zero, BitVec.and_allOnes]
  exact laneOp_inexact hop _ (by rwa [hdaz]) (by rwa [hdaz])

/-- `I`, and for REDUCE `D`, are the pre-computational flags the two operations raise: masked, they narrow nothing. -/
theorem unmasked_eq_zero_of_override {t : State} (hop : op = .rndscale ∨ op = .reduce)
    (ht : exec (Instr.build f op p form) s = .next t) (hI : s.ctrl.getLsbD 7 = true)
    (hD : op = .reduce → s.ctrl.getLsbD 8 = true) :
    t.finalFlags &&& ~~~ctrlMasks s.ctrl &&& preComputational = 0#6 := by
  obtain ⟨t', ht', hwithin⟩ := onlyPossibleFlags (Instr.build f op p form) s
  obtain rfl : t = t' := by
    rw [ht] at ht'
    cases ht'
    rfl
  rw [build_op] at hwithin
  refine unmasked_preComputational_eq_zero_iff.2 fun k hk hf => ?_
  rw [getLsbD_ctrlMasks _ (by omega)]
  have hposs := within_iff.1 hwithin k (by omega) hf
  interval_cases k
  · exact hI
  · rcases hop with rfl | rfl
    · exact absurd hposs (by decide)
    · exact hD rfl
  · rcases hop with rfl | rfl <;> exact absurd hposs (by decide)

/-- Settles O60: the suppressed `P` is no part of what merge-back starts from, and the unsuppressed one is a flag of its lane
like any other. -/
theorem suppressionBeforeTheMaskTest : Obligations.SuppressionBeforeTheMaskTest := by
  intro p form f s
  refine ⟨fun hsup => ⟨fun hnan => ?_, fun op hop => ?_⟩, fun hsup hP n hact hfin hoff op hop => ?_⟩
  · obtain ⟨t, ht, hans⟩ := exec_build_answer p form .rndscale f s
    exact ⟨t, ht, hans.silent (rndscale_reported_eq_zero hsup hnan)⟩
  · obtain ⟨t, ht, hans⟩ := exec_build_answer p form op f s
    exact ⟨t, ht, by rw [hans.finalFlags_eq, getLsbD_finalFlags_of_suppressed hop hsup]⟩
  · have hm : op.isMask = false := by rcases hop with rfl | rfl <;> rfl
    obtain ⟨t, ht, -, hrep⟩ := laneAnswers_build op form f s n hm hact
    have hbit := laneResult_inexact hop hsup hfin hoff
    refine ⟨t, ht, hrep.fault_eq_true (by decide) hbit hP, fun hI hD => ?_⟩
    obtain ⟨-, -, hall, -, -⟩ := hrep
    have hin := hall (unmasked_eq_zero_of_override hop ht hI hD)
    rw [← hin, BitVec.getLsbD_and, Bool.and_eq_true] at hbit
    exact hbit.2

end Sys2Proof.Machine
end

section
/-! SUPPORT. REDUCE as the subtraction that RNDSCALE and SUB do as two commands: what of the context each lane function reads,
and how merge-back treats the flags of both (48_round_reduce_scalef.md R264, 43_status_context.md R176, R178). -/

namespace Sys2Proof.Machine

variable {p : Prec} {form : Form} {op : Op} {f : Fields} {s t : State} {n : Nat}

/-! ### What a lane function reads of its context -/

/-- The values of rounding are those of the mode and the flush-to-zero: the masks decide about flags alone. -/
theorem roundPack_val_masks (sc : StatusContext) (m : Flags) (sg : Bool) (x : Exact) :
    (roundPack { sc with exceptionMasks := m } sg x : LaneOut p).val = (roundPack sc sg x : LaneOut p).val := by
  simp only [roundPack]
  split
  · rfl
  · split
    · rfl
    · unfold underflow
      split <;> rfl

theorem addCore_val_masks (sc : StatusContext) (m : Flags) (a b : Lane p) :
    (addCore { sc with exceptionMasks := m } a b).val = (addCore sc a b).val := by
  unfold addCore roundSum
  split
  · rfl
  · rw [raise_val, raise_val]
    split
    · rfl
    · split
      · rfl
      · split
        · rfl
        · exact roundPack_val_masks sc m _ _

theorem sub_val_masks (sc : StatusContext) (m : Flags) (a b : Lane p) :
    (sub { sc with exceptionMasks := m } a b).val = (sub sc a b).val := by
  have hdaz (v : Lane p) : daz { sc with exceptionMasks := m } v = daz sc v := rfl
  simp only [sub, hdaz]
  split
  · rfl
  · exact addCore_val_masks sc m _ _

/-- What is suppressed is no business of a lane. -/
theorem sub_suppress (sc : StatusContext) (fl : Flags) (a b : Lane p) :
    sub { sc with suppressFlags := fl } a b = sub sc a b := rfl

/-- Rounding to an integer raises no flag that a mask decides about. -/
theorem rndscale_masks (sc : StatusContext) (m : Flags) (a : Lane p) (imm8 : BitVec 8) :
    rndscale { sc with exceptionMasks := m } a imm8 = rndscale sc a imm8 := rfl

/-- `reduce` of anything but an infinity is the difference of the operand and `rndscale`'s answer, with the flags of both. -/
theorem reduce_of_not_isInf (sc : StatusContext) {a : Lane p} (imm8 : BitVec 8) (h : isInf a = false) :
    reduce sc a imm8 = (sub sc a (rndscale sc a imm8).val).raise (rndscale sc a imm8).flags :=
  if_neg (by rw [h]; exact Bool.false_ne_true)

theorem reduce_of_isInf (sc : StatusContext) {a : Lane p} (imm8 : BitVec 8) (h : isInf a = true) :
    reduce sc a imm8 = quietly (signedZero false) := if_pos h

/-! ### The two commands -/

/-- The state RNDSCALE is issued in, every exception masked. -/
def withAllMasked (s : State) : State := { s with ctrl := maskAll s.ctrl }

/-- The state SUB is issued in: RNDSCALE's answer in B, the mode in force in a given control register. -/
def minusRounded (f : Fields) (s : State) (r : Container) (c : CtrlWord) : State :=
  { s with b := r, ctrl := withRc c (overridden f s).roundingMode }

theorem overridden_withAllMasked (f : Fields) (s : State) :
    overridden f (withAllMasked s) = { overridden f s with exceptionMasks := 0x3F#6 } := by
  rw [overridden, ambient, withAllMasked, fromControlRegister_maskAll]
  rfl

/-- SUB runs in REDUCE's context, but for the suppressed flags. -/
theorem ambient_minusRounded (f : Fields) (s : State) (r : Container) :
    ambient (minusRounded f s r s.ctrl) = { overridden f s with suppressFlags := 0#6 } := by
  rw [ambient, minusRounded, fromControlRegister_withRc]
  rfl

theorem ambient_minusRounded_maskAll (f : Fields) (s : State) (r : Container) :
    ambient (minusRounded f s r (maskAll s.ctrl)) =
      { overridden f s with suppressFlags := 0#6, exceptionMasks := 0x3F#6 } := by
  rw [ambient, minusRounded, fromControlRegister_withRc, fromControlRegister_maskAll]
  rfl

/-- A command with every exception masked reports all its unsuppressed flags and does not fault. -/
theorem CommandAnswer.of_masked (h : CommandAnswer p form op f s t) (hm : (ambient s).exceptionMasks = 0x3F#6) :
    t.fault = false ∧ t.finalFlags = (endContext p form op f s).reported := by
  have hnot : ~~~(endContext p form op f s).exceptionMasks = 0#6 := by
    rw [exceptionMasks_endContext]
    exact congrArg (~~~·) hm
  constructor
  · rw [h.fault_eq, shouldFault_eq, hnot, BitVec.and_zero]
    rfl
  · rw [h.finalFlags_eq, finalFlags_eq_reportedFlags, reportedFlags, hnot, BitVec.and_zero, BitVec.zero_and, if_pos rfl]

/-- An active lane of a container result holds what the lane function answers. -/
theorem CommandAnswer.laneOf_result (h : CommandAnswer p form op f s t) (hm : op.isMask = false) (hno : t.fault = false)
    (hact : ActiveLane p form f s n) : laneOf p t.result n = (laneResult p op f s n).val := by
  obtain ⟨hn, hk⟩ := hact
  rw [h.result_eq hm hno, laneOf_packLanes _ _ _ (width_mul_loopLanes_le form f.vl p) hn, resultLane, blend, hk, if_pos rfl]

/-- The lanes of a container that hold RNDSCALE's answers to a command's operands. -/
def HoldsRndscale (p : Prec) (form : Form) (f : Fields) (s : State) (r : Container) : Prop :=
  ∀ n, ActiveLane p form f s n → laneOf p r n = (rndscale (overridden f s) (laneOf p s.a n) f.imm8).val

theorem laneResult_rndscale_withAllMasked (f : Fields) (s : State) (n : Nat) :
    laneResult p .rndscale f (withAllMasked s) n = .ofValue (rndscale (overridden f s) (laneOf p s.a n) f.imm8) := by
  rw [← rndscale_masks _ 0x3F#6, ← overridden_withAllMasked]
  rfl

theorem holdsRndscale_result (h : CommandAnswer p form .rndscale f (withAllMasked s) t) (hno : t.fault = false) :
    HoldsRndscale p form f s t.result := by
  intro n hact
  rw [h.laneOf_result rfl hno hact, laneResult_rndscale_withAllMasked]
  rfl

section Lane

variable {r : Container} (hr : HoldsRndscale p form f s r) (hact : ActiveLane p form f s n)
  (hinf : isInf (laneOf p s.a n) = false)
include hr hact

/-- SUB under the same masks subtracts as REDUCE does. -/
theorem laneResult_sub_minusRounded :
    laneResult p .sub f (minusRounded f s r s.ctrl) n =
      .ofValue (sub (overridden f s) (laneOf p s.a n) (rndscale (overridden f s) (laneOf p s.a n) f.imm8).val) := by
  rw [← hr n hact, ← sub_suppress _ 0#6, ← ambient_minusRounded f s r]
  rfl

theorem laneResult_sub_minusRounded_maskAll :
    (laneResult p .sub f (minusRounded f s r (maskAll s.ctrl)) n).val =
      (sub (overridden f s) (laneOf p s.a n) (rndscale (overridden f s) (laneOf p s.a n) f.imm8).val).val := by
  rw [← hr n hact, ← sub_suppress _ 0#6, ← sub_val_masks _ 0x3F#6, ← ambient_minusRounded_maskAll f s r]
  rfl

include hinf

theorem laneResult_reduce_val :
    (laneResult p .reduce f s n).val = (laneResult p .sub f (minusRounded f s r (maskAll s.ctrl)) n).val := by
  rw [laneResult_sub_minusRounded_maskAll hr hact]
  have hred := congrArg LaneOut.val (reduce_of_not_isInf (overridden f s) f.imm8 hinf)
  exact hred

theorem laneResult_reduce_flags :
    (laneResult p .reduce f s n).flags =
      (laneResult p .rndscale f (withAllMasked s) n).flags ||| (laneResult p .sub f (minusRounded f s r s.ctrl) n).flags := by
  rw [laneResult_sub_minusRounded hr hact, laneResult_rndscale_withAllMasked, BitVec.or_comm]
  exact congrArg LaneOut.flags (reduce_of_not_isInf (overridden f s) f.imm8 hinf)

end Lane

/-! ### The flags of the two commands together -/

/-- What REDUCE reports, before narrowing: the flags of RNDSCALE and of SUB, without a suppressed `P`. -/
theorem reported_reduce {r : Container} (hr : HoldsRndscale p form f s r)
    (hinf : ∀ n, ActiveLane p form f s n → isInf (laneOf p s.a n) = false) :
    (endContext p form .reduce f s).reported =
      ((endContext p form .rndscale f (withAllMasked s)).reported |||
        (endContext p form .sub f (minusRounded f s r s.ctrl)).reported) &&&
        ~~~flagIf (f.imm8.getLsbD 3) flagP := by
  apply BitVec.eq_of_getLsbD_eq
  intro j hj
  have hred : (commandContext .reduce f s).suppressFlags = flagIf (f.imm8.getLsbD 3) flagP :=
    suppressFlags_commandContext_override (.inr rfl) f s
  have hrnd : (commandContext .rndscale f (withAllMasked s)).suppressFlags = flagIf (f.imm8.getLsbD 3) flagP :=
    suppressFlags_commandContext_override (.inl rfl) f (withAllMasked s)
  have hsub : (commandContext .sub f (minusRounded f s r s.ctrl)).suppressFlags = 0#6 := rfl
  have hlanes : (∃ n, ActiveLane p form f s n ∧ (laneResult p .reduce f s n).flags.getLsbD j = true) ↔
      (∃ n, ActiveLane p form f s n ∧ (laneResult p .rndscale f (withAllMasked s) n).flags.getLsbD j = true) ∨
        ∃ n, ActiveLane p form f s n ∧ (laneResult p .sub f (minusRounded f s r s.ctrl) n).flags.getLsbD j = true := by
    rw [← exists_or]
    refine exists_congr fun n => ?_
    rw [← and_or_left]
    refine and_congr_right fun hact => ?_
    rw [laneResult_reduce_flags hr hact (hinf n hact), BitVec.getLsbD_or, Bool.or_eq_true]
  rw [Bool.eq_iff_iff, endContext_reported hj, hred, hlanes]
  simp only [BitVec.getLsbD_and, BitVec.getLsbD_or, BitVec.getLsbD_not, hj, decide_true, Bool.true_and, Bool.and_eq_true,
    Bool.or_eq_true, Bool.not_eq_true', endContext_reported hj, hrnd, hsub, BitVec.getLsbD_zero, true_and]
  constructor
  · rintro ⟨hno, h | h⟩
    · exact ⟨.inl ⟨hno, h⟩, hno⟩
    · exact ⟨.inr h, hno⟩
  · rintro ⟨⟨-, h⟩ | h, hno⟩
    · exact ⟨hno, .inl h⟩
    · exact ⟨hno, .inr h⟩

/-- Two flag sets that agree on an unmasked flag of the pre-computational class and on that class are reported alike, and
fault. -/
theorem reportedFlags_eq_of_preComputational {m x y : Flags} (hxy : x &&& preComputational = y &&& preComputational)
    (hx : x &&& ~~~m &&& preComputational ≠ 0#6) :
    reportedFlags m x = reportedFlags m y ∧ x &&& ~~~m ≠ 0#6 ∧ y &&& ~~~m ≠ 0#6 := by
  have hcomm (z : Flags) : z &&& ~~~m &&& preComputational = z &&& preComputational &&& ~~~m := by ac_rfl
  have hy : y &&& ~~~m &&& preComputational ≠ 0#6 := by rwa [hcomm, ← hxy, ← hcomm]
  have hunmasked {z : Flags} (hz : z &&& ~~~m &&& preComputational ≠ 0#6) : z &&& ~~~m ≠ 0#6 :=
    fun h => hz (by rw [h, BitVec.zero_and])
  exact ⟨by rw [reportedFlags, reportedFlags, if_neg hx, if_neg hy, hxy], hunmasked hx, hunmasked hy⟩

/-- Dropping `P` leaves the flags below it. -/
theorem getLsbD_and_not_flagP (x : Flags) (b : Bool) {j : Nat} (hj : j < 5) :
    (x &&& ~~~flagIf b flagP).getLsbD j = x.getLsbD j := by
  rw [BitVec.getLsbD_and, BitVec.getLsbD_not, getLsbD_flagIf_flagP, decide_eq_true (by omega : j < 6),
    decide_eq_false (by omega : j ≠ 5), Bool.false_and, Bool.not_false, Bool.and_self, Bool.and_true]

/-- Flags narrowed already, joined with others, are narrowed to what the whole set is narrowed to, and fault as it does:
what was dropped is dropped again, and the unmasked flag it was dropped for stands. -/
theorem reportedFlags_or_reportedFlags (m x y : Flags) (b : Bool) :
    reportedFlags m ((x ||| reportedFlags m y) &&& ~~~flagIf b flagP) =
        reportedFlags m ((x ||| y) &&& ~~~flagIf b flagP) ∧
      ((x ||| reportedFlags m y) &&& ~~~flagIf b flagP &&& ~~~m ≠ 0#6 ↔
        (x ||| y) &&& ~~~flagIf b flagP &&& ~~~m ≠ 0#6) := by
  by_cases hy : y &&& ~~~m &&& preComputational = 0#6
  · rw [show reportedFlags m y = y from if_pos hy]
    exact ⟨rfl, Iff.rfl⟩
  · have hkept (k : Nat) (hk : k < 3) (hyk : y.getLsbD k = true) :
        ((x ||| y &&& preComputational) &&& ~~~flagIf b flagP).getLsbD k = true := by
      rw [getLsbD_and_not_flagP _ _ (by omega), BitVec.getLsbD_or, BitVec.getLsbD_and, hyk, getLsbD_preComputational,
        decide_eq_true hk, Bool.and_self, Bool.or_true]
    have hclass : (x ||| y &&& preComputational) &&& ~~~flagIf b flagP &&& preComputational =
        (x ||| y) &&& ~~~flagIf b flagP &&& preComputational := by
      apply BitVec.eq_of_getLsbD_eq
      intro j _
      simp only [BitVec.getLsbD_and, BitVec.getLsbD_or]
      cases preComputational.getLsbD j <;> simp
    rw [show reportedFlags m y = y &&& preComputational from if_neg hy]
    obtain ⟨hrep, hl, hr⟩ := reportedFlags_eq_of_preComputational (m := m) hclass fun h =>
      hy (unmasked_preComputational_eq_zero_iff.2 fun k hk hyk =>
        unmasked_preComputational_eq_zero_iff.1 h k hk (hkept k hk hyk))
    exact ⟨hrep, iff_of_true hl hr⟩

/-- Settles O51: lane by lane REDUCE is the two commands, and merge-back narrows their flags as it narrows REDUCE's. -/
theorem reduceIsSubtractionOfTheRounded : Obligations.ReduceIsSubtractionOfTheRounded := by
  intro p form f s
  refine ⟨fun n hact hinf => ?_, ?_⟩
  · have hlane : laneResult p .reduce f s n = .ofValue (quietly (signedZero false)) :=
      congrArg LaneResult.ofValue (reduce_of_isInf (overridden f s) f.imm8 hinf)
    exact laneAnswers_of_eq hact rfl (by rw [hlane]; rfl) (by rw [hlane]; exact BitVec.zero_and)
  · obtain ⟨t, ht, hrnd⟩ := exec_build_answer p form .rndscale f (withAllMasked s)
    obtain ⟨u, hu, hsub⟩ := exec_build_answer p form .sub f (minusRounded f s t.result (maskAll s.ctrl))
    obtain ⟨w, hw, hsame⟩ := exec_build_answer p form .sub f (minusRounded f s t.result s.ctrl)
    obtain ⟨v, hv, hred⟩ := exec_build_answer p form .reduce f s
    obtain ⟨htno, htff⟩ := hrnd.of_masked (by rw [ambient, withAllMasked, fromControlRegister_maskAll])
    obtain ⟨huno, -⟩ := hsub.of_masked (by rw [ambient_minusRounded_maskAll])
    have hr := holdsRndscale_result hrnd htno
    refine ⟨t, u, w, v, ht, htno, hu, huno, hw, hv, fun hno n hact hinf => ?_, fun hinf => ?_⟩
    · rw [hred.laneOf_result rfl hno hact, laneResult_reduce_val hr hact hinf]
      exact (hsub.laneOf_result rfl huno hact).symm
    · have hmasks : (endContext p form .sub f (minusRounded f s t.result s.ctrl)).exceptionMasks = ctrlMasks s.ctrl := by
        rw [exceptionMasks_endContext]
        exact congrArg StatusContext.exceptionMasks (ambient_minusRounded f s t.result)
      obtain ⟨hff, hfault⟩ := reportedFlags_or_reportedFlags (ctrlMasks s.ctrl) t.finalFlags
        (endContext p form .sub f (minusRounded f s t.result s.ctrl)).reported (f.imm8.getLsbD 3)
      rw [htff, ← reported_reduce hr hinf] at hff hfault
      constructor
      · rw [hred.finalFlags_eq, hsame.finalFlags_eq, finalFlags_eq_reportedFlags, finalFlags_eq_reportedFlags, hmasks,
          exceptionMasks_endContext, ← hff, htff]
      · rw [hred.fault_eq, hsame.finalFlags_eq, finalFlags_eq_reportedFlags, shouldFault_eq, hmasks,
          exceptionMasks_endContext, htff, decide_eq_decide, ← hfault]

end Sys2Proof.Machine
end

section
/-! SUPPORT. The lane loop of 44_lanes_masking.md R201 against the lanes evaluated at once: before lane `n` the loop carries the
flags and the results of the lanes below it, because no lane function reads the sticky flags and because writing a lane
above those already packed is packing one more. -/

namespace Sys2Proof.Machine

variable {p : Prec} {op : Op} {f : Fields} {s : State} {n : Nat}

/-! ### No lane function reads the sticky flags (44_lanes_masking.md R191) -/

/-- No operation's lane function projects this field of the context, so the two sides are one term. -/
theorem laneOp_stickyFlags (op : Op) (sc : StatusContext) (fl : Flags) (imm8 : BitVec 8) (x : LaneArgs p) :
    laneOp op { sc with stickyFlags := fl } imm8 x = laneOp op sc imm8 x := by
  cases op <;> rfl

/-- A lane visited after others answers what it answers when it is the first. -/
theorem laneOp_accumulate (op : Op) (sc : StatusContext) (g : Nat → Flags) (n : Nat) (imm8 : BitVec 8)
    (x : LaneArgs p) : laneOp op (sc.accumulate g n) imm8 x = laneOp op sc imm8 x := by
  rw [accumulate_eq, laneOp_stickyFlags]

theorem StatusContext.flag_zero (sc : StatusContext) : sc.flag 0#6 = sc := by
  rw [StatusContext.flag, BitVec.or_zero]

/-! ### Writing one more lane or bit (00_scope.md R13) -/

/-- Clearing bits above those that can be set clears none. -/
theorem and_not_shiftLeft_eq_self {w m : Nat} {x y : BitVec w} (hx : ∀ j, m ≤ j → x.getLsbD j = false) :
    x &&& ~~~(y <<< m) = x := by
  apply BitVec.eq_of_getLsbD_eq
  intro j hj
  by_cases hjm : m ≤ j
  · rw [BitVec.getLsbD_and, hx j hjm, Bool.false_and]
  · simp [hj, Nat.lt_of_not_le hjm]

theorem setLane_packLanes (v : Nat → Lane p) (n : Nat) : setLane p (packLanes v n) n (v n) = packLanes v (n + 1) := by
  rw [setLane, and_not_shiftLeft_eq_self fun j => packLanes_getLsbD_of_ge v n j, packLanes]

/-- A packed mask has no bit at or above its last one. -/
theorem packBits_getLsbD_of_ge (b : Nat → Bool) (n j : Nat) (h : n ≤ j) : (packBits b n).getLsbD j = false := by
  by_cases hj : j < 32
  · rw [packBits_getLsbD b n j hj, decide_eq_false (Nat.not_lt.2 h), Bool.false_and]
  · exact BitVec.getLsbD_of_ge _ _ (Nat.not_lt.1 hj)

theorem setMaskBit_packBits (b : Nat → Bool) (n : Nat) : setMaskBit (packBits b n) n (b n) = packBits b (n + 1) := by
  rw [setMaskBit, and_not_shiftLeft_eq_self fun j => packBits_getLsbD_of_ge b n j, packBits]

/-- Writing a 0 above the bits of a packed mask leaves it as it is. -/
theorem setMaskBit_packBits_false (b : Nat → Bool) (n : Nat) : setMaskBit (packBits b n) n false = packBits b n := by
  rw [setMaskBit, and_not_shiftLeft_eq_self fun j => packBits_getLsbD_of_ge b n j]
  simp

/-! ### A lane behind the multiplexer (44_lanes_masking.md R194, R199) -/

theorem resultLane_of_active (h : laneActive f s.k n = true) : resultLane p op f s n = (laneResult p op f s n).val := by
  rw [resultLane, blend, h, if_pos rfl]

theorem resultLane_of_not_active (h : laneActive f s.k n = false) :
    resultLane p op f s n = if zeroPolicy f then 0#p.width else laneOf p s.dprior n := by
  rw [resultLane, blend, h, if_neg Bool.false_ne_true]

theorem resultBit_of_active (h : laneActive f s.k n = true) : resultBit p op f s n = (laneResult p op f s n).bit := by
  rw [resultBit, h, Bool.true_and]

theorem resultBit_of_not_active (h : laneActive f s.k n = false) : resultBit p op f s n = false := by
  rw [resultBit, h, Bool.false_and]

/-! ### The loop -/

/-- What the loop carries before lane `n`: the flags of the active lanes below `n`, and the lanes below `n` of the one result
the operation writes. -/
def gathered (p : Prec) (op : Op) (f : Fields) (s : State) (n : Nat) : LoopState where
  sc := (commandContext op f s).accumulate (fun j => activeFlags f s.k j (laneResult p op f s j).flags) n
  r := if op.isMask then 0#512 else packLanes (resultLane p op f s) n
  kr := if op.isMask then packBits (resultBit p op f s) n else 0#32

theorem gathered_zero (p : Prec) (op : Op) (f : Fields) (s : State) :
    gathered p op f s 0 = { sc := commandContext op f s, r := 0#512, kr := 0#32 } := by
  simp only [gathered, StatusContext.accumulate, packLanes, packBits, ite_self]

theorem gathered_succ_of_isMask (n : Nat) (h : op.isMask = true) :
    gathered p op f s (n + 1) =
      { gathered p op f s n with
        sc := (gathered p op f s n).sc.flag (activeFlags f s.k n (laneResult p op f s n).flags)
        kr := setMaskBit (gathered p op f s n).kr n (resultBit p op f s n) } := by
  simp only [gathered, h, if_true, setMaskBit_packBits, StatusContext.accumulate]

theorem gathered_succ_of_not_isMask (n : Nat) (h : op.isMask = false) :
    gathered p op f s (n + 1) =
      { gathered p op f s n with
        sc := (gathered p op f s n).sc.flag (activeFlags f s.k n (laneResult p op f s n).flags)
        r := setLane p (gathered p op f s n).r n (resultLane p op f s n) } := by
  simp only [gathered, h, Bool.false_eq_true, if_false, setLane_packLanes, StatusContext.accumulate]

theorem ite_maskEn_eq_laneActive (f : Fields) (k : MaskWord) (n : Nat) :
    (if f.maskEn then k.getLsbD n else true) = laneActive f k n := by
  unfold laneActive
  cases f.maskEn <;> rfl

theorem ite_maskEn_eq_zeroPolicy (f : Fields) : (if f.maskEn then f.zero else true) = zeroPolicy f := by
  unfold zeroPolicy
  cases f.maskEn <;> rfl

/-- A pass over an active lane runs the lane function in the context the passes before it left. -/
theorem loopBody_of_active {i : Instr} {l : LoopState} {r : LaneResult i.prec} (h : laneActive i.fields s.k n = true)
    (hr : laneOp i.op l.sc i.fields.imm8 (s.laneArgs i.prec n) = r) :
    loopBody i s l n =
      if i.op.isMask then { l with sc := l.sc.flag r.flags, kr := setMaskBit l.kr n r.bit }
      else { l with sc := l.sc.flag r.flags, r := setLane i.prec l.r n r.val } := by
  simp only [loopBody, ite_maskEn_eq_laneActive, h, if_true, hr]

/-- A pass over a masked-off lane raises nothing; it zeroes or merges the lane of a container result. -/
theorem loopBody_of_not_active {i : Instr} (l : LoopState) (h : laneActive i.fields s.k n = false) :
    loopBody i s l n =
      if i.op.isMask then l
      else { l with
        r := setLane i.prec l.r n (if zeroPolicy i.fields then 0#i.prec.width else laneOf i.prec s.dprior n) } := by
  simp only [loopBody, ite_maskEn_eq_laneActive, ite_maskEn_eq_zeroPolicy, h, Bool.false_eq_true, if_false]

/-- The pass over lane `n` gathers lane `n`. -/
theorem loopBody_gathered (i : Instr) (s : State) (n : Nat) :
    loopBody i s (gathered i.prec i.op i.fields s n) n = gathered i.prec i.op i.fields s (n + 1) := by
  cases hact : laneActive i.fields s.k n with
  | true =>
    have hr : laneOp i.op (gathered i.prec i.op i.fields s n).sc i.fields.imm8 (s.laneArgs i.prec n) =
        laneResult i.prec i.op i.fields s n := laneOp_accumulate ..
    rw [loopBody_of_active hact hr]
    cases hm : i.op.isMask with
    | true => rw [if_pos rfl, gathered_succ_of_isMask n hm, resultBit_of_active hact, activeFlags, hact, if_pos rfl]
    | false =>
      rw [if_neg Bool.false_ne_true, gathered_succ_of_not_isMask n hm, resultLane_of_active hact, activeFlags, hact,
        if_pos rfl]
  | false =>
    rw [loopBody_of_not_active _ hact]
    cases hm : i.op.isMask with
    | true =>
      rw [if_pos rfl, gathered_succ_of_isMask n hm, resultBit_of_not_active hact, activeFlags, hact,
        if_neg Bool.false_ne_true, StatusContext.flag_zero]
      simp only [gathered, hm, if_true, setMaskBit_packBits_false]
    | false =>
      rw [if_neg Bool.false_ne_true, gathered_succ_of_not_isMask n hm, resultLane_of_not_active hact, activeFlags, hact,
        if_neg Bool.false_ne_true, StatusContext.flag_zero]

theorem foldl_loopBody (i : Instr) (s : State) (n : Nat) :
    (List.range n).foldl (loopBody i s) { sc := commandContext i.op i.fields s, r := 0#512, kr := 0#32 } =
      gathered i.prec i.op i.fields s n := by
  induction n with
  | zero => exact (gathered_zero ..).symm
  | succ n ih => rw [List.range_succ, List.foldl_concat, ih, loopBody_gathered]

theorem commandLoop_eq (i : Instr) (s : State) :
    commandLoop i s = gathered i.prec i.op i.fields s (i.form.loopLanes i.fields.vl i.prec) := foldl_loopBody i s _

/-- Settles O12: the loop ends with the context and the result the command answers with. -/
theorem execIsTheLaneLoop : Obligations.ExecIsTheLaneLoop := by
  intro i s
  obtain ⟨t, ht, h⟩ := exec_build_answer i.prec i.form i.op i.fields s
  rw [build_parts] at ht
  rw [commandLoop_eq]
  refine ⟨t, ht, h.finalFlags_eq, h.fault_eq, h.ctrlOut_eq, fun hno => ?_⟩
  cases hm : i.op.isMask with
  | true => simpa [gathered, hm] using h.kresult_eq hm hno
  | false => simpa [gathered, hm] using h.result_eq hm hno

end Sys2Proof.Machine
end

section
/-! SUPPORT. The lanes of a response one by one: behind the masked-lane multiplexer a container lane is computed, zeroed or
merged and a mask bit is computed or 0, and a command with no active lane has nothing to report (44_lanes_masking.md R194 to
R199). -/

namespace Sys2Proof.Machine

variable {p : Prec} {form : Form} {op : Op} {f : Fields} {s t : State} {n : Nat}

/-! ### The multiplexer in the terms of the rules -/

theorem laneActive_iff (f : Fields) (k : MaskWord) (n : Nat) :
    laneActive f k n = true ↔ f.maskEn = false ∨ k.getLsbD n = true := by
  rw [laneActive, Bool.or_eq_true, Bool.not_eq_true']

theorem laneActive_of_maskEn (h : f.maskEn = true) (k : MaskWord) (n : Nat) : laneActive f k n = k.getLsbD n := by
  rw [laneActive, h, Bool.not_true, Bool.false_or]

theorem zeroPolicy_of_maskEn (h : f.maskEn = true) : zeroPolicy f = f.zero := by
  rw [zeroPolicy, h, Bool.not_true, Bool.false_or]

theorem loopLanes_eq_ite (form : Form) (vl : VecLen) (p : Prec) :
    form.loopLanes vl p = if form = .packed then vl.bits / p.width else 1 := by
  cases form <;> rfl

/-- A lane is computed, zeroed or merged (44_lanes_masking.md R194, R195). -/
theorem resultLane_eq_ite (p : Prec) (op : Op) (f : Fields) (s : State) (n : Nat) :
    resultLane p op f s n =
      if f.maskEn = false ∨ s.k.getLsbD n = true then (laneResult p op f s n).val
      else if f.zero = true then 0#p.width else laneOf p s.dprior n := by
  cases hact : laneActive f s.k n with
  | true => rw [resultLane_of_active hact, if_pos ((laneActive_iff ..).1 hact)]
  | false =>
    have hnot : ¬ (f.maskEn = false ∨ s.k.getLsbD n = true) := by
      rw [← laneActive_iff, hact]
      exact Bool.false_ne_true
    have hmask : f.maskEn = true := Bool.eq_true_of_not_eq_false fun h => hnot (.inl h)
    rw [resultLane_of_not_active hact, zeroPolicy_of_maskEn hmask, if_neg hnot]

/-! ### The result ports of an answer -/

namespace CommandAnswer

theorem laneOf_result_of_lt (h : CommandAnswer p form op f s t) (hm : op.isMask = false) (hno : t.fault = false)
    (hn : n < form.loopLanes f.vl p) : laneOf p t.result n = resultLane p op f s n := by
  rw [h.result_eq hm hno, laneOf_packLanes _ _ _ (width_mul_loopLanes_le form f.vl p) hn]

theorem laneOf_result_of_ge (h : CommandAnswer p form op f s t) (hm : op.isMask = false) (hno : t.fault = false)
    (hn : form.loopLanes f.vl p ≤ n) : laneOf p t.result n = 0#p.width := by
  rw [h.result_eq hm hno, laneOf_packLanes_of_ge _ _ _ hn]

theorem kresult_getLsbD (h : CommandAnswer p form op f s t) (hm : op.isMask = true) (hno : t.fault = false)
    (hn : n < 32) : t.kresult.getLsbD n = (decide (n < form.loopLanes f.vl p) && resultBit p op f s n) := by
  rw [h.kresult_eq hm hno, packBits_getLsbD _ _ _ hn]

end CommandAnswer

/-! ### No active lane (44_lanes_masking.md R196) -/

theorem endContext_reported_of_no_lane (h : ∀ n, ¬ ActiveLane p form f s n) :
    (endContext p form op f s).reported = 0#6 := by
  apply BitVec.eq_of_getLsbD_eq
  intro j hj
  rw [BitVec.getLsbD_zero]
  refine Bool.eq_false_of_not_eq_true fun hr => ?_
  obtain ⟨-, n, hact, -⟩ := (endContext_reported hj).1 hr
  exact h n hact

theorem kresult_eq_zero_of_no_lane (hans : CommandAnswer p form op f s t) (hm : op.isMask = true)
    (hno : t.fault = false) (h : ∀ n < form.loopLanes f.vl p, laneActive f s.k n = false) : t.kresult = 0#32 := by
  apply BitVec.eq_of_getLsbD_eq
  intro n hn
  rw [hans.kresult_getLsbD hm hno hn, BitVec.getLsbD_zero, Bool.and_eq_false_imp, decide_eq_true_eq]
  exact fun hlt => resultBit_of_not_active (h n hlt)

/-! ### The statements -/

/-- Settles O13: every lane of a packed command is visited, and is what the multiplexer gives. -/
theorem packedResultLanes : Obligations.PackedResultLanes := by
  intro op p f s hm
  obtain ⟨t, ht, h⟩ := exec_build_answer p .packed op f s
  refine ⟨t, ht, fun hno n hn => ?_⟩
  rw [h.laneOf_result_of_lt hm hno hn, resultLane_eq_ite]

/-- Settles O14: lane 0 alone is visited, and a lane above the visited ones is zero. -/
theorem scalarResultLanes : Obligations.ScalarResultLanes := by
  intro op p f s hm
  obtain ⟨t, ht, h⟩ := exec_build_answer p .scalar op f s
  refine ⟨t, ht, fun hno => ⟨?_, fun n hn _ => h.laneOf_result_of_ge hm hno hn⟩⟩
  rw [h.laneOf_result_of_lt hm hno Nat.one_pos, resultLane_eq_ite]

/-- Settles O15: a bit of the mask result is the lane's own where the lane is visited and active. -/
theorem maskResultBits : Obligations.MaskResultBits := by
  intro op p form f s hm
  obtain ⟨t, ht, h⟩ := exec_build_answer p form op f s
  refine ⟨t, ht, fun hno n hn => ?_⟩
  rw [h.kresult_getLsbD hm hno hn, resultBit, Bool.and_eq_true, Bool.and_eq_true, decide_eq_true_eq, laneActive_iff,
    loopLanes_eq_ite]

/-- Settles O16: with no active lane nothing is reported, and every lane visited takes the multiplexer's other input. -/
theorem fullyMaskedCommandIsSilent : Obligations.FullyMaskedCommandIsSilent := by
  intro op p form f s hmask hk
  have hoff (n : Nat) (hn : n < form.loopLanes f.vl p) : laneActive f s.k n = false := by
    rw [laneActive_of_maskEn hmask, hk n hn]
  obtain ⟨t, ht, h⟩ := exec_build_answer p form op f s
  obtain ⟨hno, hff, hctrl⟩ := h.silent <| endContext_reported_of_no_lane fun n ⟨hn, hact⟩ =>
    Bool.false_ne_true ((hoff n hn).symm.trans hact)
  refine ⟨t, ht, hno, hff, hctrl, fun hm => kresult_eq_zero_of_no_lane h hm hno hoff, fun hm n hn => ?_⟩
  rw [h.laneOf_result_of_lt hm hno hn, resultLane_of_not_active (hoff n hn), zeroPolicy_of_maskEn hmask]

/-- Settles O5: the command on the port is fetched, and its word decodes to the instruction. -/
theorem stepRunsTheDecodedInstruction : Obligations.StepRunsTheDecodedInstruction := by
  intro s w i hcmd hdec
  simp only [step, State.fetch, hcmd, hdec]

end Sys2Proof.Machine
end

section
/-! SUPPORT. FPCLASS: the categories of R103 partition the flushed lanes, so each of the eight tests is a property of the
lane itself; and a command none of whose active lanes raises a flag is silent (45_classify_fixup.md R221). -/

namespace Sys2Proof.Machine

variable {p : Prec} {form : Form} {op : Op} {f : Fields} {s : State}

/-! ### No flag raised -/

theorem endContext_reported_of_no_flag (h : ∀ n, ActiveLane p form f s n → (laneResult p op f s n).flags = 0#6) :
    (endContext p form op f s).reported = 0#6 := by
  apply BitVec.eq_of_getLsbD_eq
  intro j hj
  rw [BitVec.getLsbD_zero]
  refine Bool.eq_false_of_not_eq_true fun hr => ?_
  obtain ⟨-, n, hact, hfl⟩ := (endContext_reported hj).1 hr
  rw [h n hact, BitVec.getLsbD_zero] at hfl
  cases hfl

/-! ### The categories (40_numerics.md R102, R103) -/

/-- What a category says of the flushed lane, in the predicates of R102. -/
def Category.Holds : Category → Lane p → Prop
  | .zero, t => isZero t = true
  | .normal, t => isNormal t = true
  | .denormal, t => isDenorm t = true
  | .signalingNaN, t => isSNaN t = true
  | .quietNaN, t => isQNaN t = true
  | .posInfinity, t => isInf t = true ∧ sign t = false
  | .negInfinity, t => isInf t = true ∧ sign t = true

/-- A lane of none of the number classes is a NaN. -/
theorem isNaN_of_no_other_class {t : Lane p} (hz : ¬ isZero t = true) (hd : ¬ isDenorm t = true)
    (hn : ¬ isNormal t = true) (hi : ¬ isInf t = true) : isNaN t = true := by
  simp only [isZero, isDenorm, isNormal, isInf, isNaN, Bool.and_eq_true, beq_iff_eq, bne_iff_ne] at *
  tauto

theorem holds_classify (v : Lane p) (on : Bool) : (classify v on).Holds (flushDenormal on v) := by
  simp only [classify]
  split_ifs with hz hd hn hi hs hq
  · exact hz
  · exact hd
  · exact hn
  · exact ⟨hi, hs⟩
  · exact ⟨hi, Bool.eq_false_of_not_eq_true hs⟩
  · exact hq
  · have hnan := isNaN_of_no_other_class hz hd hn hi
    simp only [isSNaN, hnan, Bool.true_and, Bool.not_eq_true', Bool.not_eq_false] at hq
    simp only [Category.Holds, isQNaN, hnan, hq, Bool.and_self]

/-- The classes exclude each other, so the category of a lane is the one that holds of it. -/
theorem classify_eq_of_holds {v : Lane p} {on : Bool} {c : Category} (h : c.Holds (flushDenormal on v)) :
    classify v on = c := by
  have hpos := (eall_pos p).ne'
  cases c with
  | zero => exact if_pos h
  | denormal =>
    simp only [Category.Holds, isDenorm, Bool.and_eq_true, beq_iff_eq, bne_iff_ne] at h
    simp [classify, isZero, isDenorm, h]
  | normal =>
    simp only [Category.Holds, isNormal, Bool.and_eq_true, bne_iff_ne] at h
    simp [classify, isZero, isDenorm, isNormal, h]
  | posInfinity | negInfinity =>
    simp only [Category.Holds, isInf, Bool.and_eq_true, beq_iff_eq] at h
    simp [classify, isZero, isDenorm, isNormal, isInf, h, hpos]
  | signalingNaN =>
    simp only [Category.Holds, isSNaN, isNaN, Bool.and_eq_true, beq_iff_eq, bne_iff_ne] at h
    simp [classify, isZero, isDenorm, isNormal, isInf, isSNaN, isNaN, h, hpos]
  | quietNaN =>
    simp only [Category.Holds, isQNaN, isNaN, Bool.and_eq_true, beq_iff_eq, bne_iff_ne] at h
    simp [classify, isZero, isDenorm, isNormal, isInf, isSNaN, isNaN, h, hpos]

theorem classify_eq_iff (v : Lane p) (on : Bool) (c : Category) :
    classify v on = c ↔ c.Holds (flushDenormal on v) :=
  ⟨fun h => h ▸ holds_classify v on, classify_eq_of_holds⟩

theorem eq_signedZero_iff (v : Lane p) (s : Bool) : v = signedZero s ↔ isZero v = true ∧ sign v = s := by
  constructor
  · rintro rfl
    exact ⟨isZero_signedZero s, sign_signedZero s⟩
  · rintro ⟨hz, rfl⟩
    exact (isZero_iff v).1 hz

/-! ### The eight tests -/

/-- The OR of the selected tests, each as a property of the flushed lane. -/
theorem fpclass_iff (v : Lane p) (sel : BitVec 8) (on : Bool) :
    let t := flushDenormal on v
    (fpclass v sel on = true ↔
      (sel.getLsbD 0 = true ∧ isQNaN t = true) ∨ (sel.getLsbD 1 = true ∧ t = signedZero false) ∨
      (sel.getLsbD 2 = true ∧ t = signedZero true) ∨ (sel.getLsbD 3 = true ∧ t = infinity false) ∨
      (sel.getLsbD 4 = true ∧ t = infinity true) ∨ (sel.getLsbD 5 = true ∧ isDenorm t = true) ∨
      (sel.getLsbD 6 = true ∧ (isNormal t = true ∨ isDenorm t = true) ∧ sign t = true) ∨
      (sel.getLsbD 7 = true ∧ isSNaN t = true)) := by
  simp only [fpclass, Bool.or_eq_true, Bool.and_eq_true, Bool.not_eq_true', beq_iff_eq, classify_eq_iff, Category.Holds,
    eq_signedZero_iff, eq_infinity_iff, or_assoc]

/-- Settles O44: FPCLASS raises nothing in any lane, and an active lane's bit is its test of the flushed operand. -/
theorem classTest : Obligations.ClassTest := by
  intro p form f s
  obtain ⟨t, ht, h⟩ := exec_build_answer p form .fpclass f s
  obtain ⟨hno, hff, hctrl⟩ := h.silent (endContext_reported_of_no_flag fun _ _ => rfl)
  refine ⟨t, ht, hno, hff, hctrl, fun n ⟨hn, hact⟩ => ?_⟩
  have h32 : n < 32 := lt_of_lt_of_le hn ((loopLanes_le form f.vl p).trans (by decide))
  rw [h.kresult_getLsbD rfl hno h32, decide_eq_true hn, Bool.true_and, resultBit_of_active hact]
  exact fpclass_iff (laneOf p s.a n) f.imm8 (ambient s).daz

end Sys2Proof.Machine
end

section
/-! SUPPORT. FIXUPIMM: the model's token, fault-mask bits, nibble and response against the tables of the rules, one lemma
for each (45_classify_fixup.md R222 to R224, 30_encoding.md R82, R84). -/

namespace Sys2Proof.Machine

variable {p : Prec}

/-! ### The token and its fault-mask bits (45_classify_fixup.md R222) -/

theorem fixupToken_eq_number (t : Lane p) : fixupToken t = (token t).number := by
  simp only [token, fixupToken, apply_ite Token.number]
  cases isInf t <;> cases sign t <;> rfl

theorem number_lt (j : Token) : j.number < 8 := by cases j <;> decide

theorem faultBitSet_invalidBit (imm8 : BitVec 8) (t : Lane p) :
    faultBitSet imm8 (token t).invalidBit = fixupInvalid imm8 t := by
  rw [fixupInvalid, fixupToken_eq_number]
  cases token t <;> simp [Token.number, Token.invalidBit, faultBitSet]

theorem faultBitSet_divzBit (imm8 : BitVec 8) (t : Lane p) :
    faultBitSet imm8 (token t).divzBit = fixupDivide imm8 t := by
  rw [fixupDivide, fixupToken_eq_number]
  cases token t <;> simp [Token.number, Token.divzBit, faultBitSet]

theorem faultBitSet_zero (o : Option Nat) : faultBitSet 0#8 o = false := by
  cases o with
  | none => rfl
  | some i => exact BitVec.getLsbD_zero

/-! ### The nibble of a token (30_encoding.md R84) -/

theorem responseCode_toNat (b : Lane p) {j : Nat} (hj : j < 8) :
    (responseCode (responseOperand b) j).toNat = b.toNat / 16 ^ j % 16 := by
  have h16 : 16 ^ j = 2 ^ (4 * j) := (pow_mul 2 4 j).symm
  have h32 : 2 ^ 32 = 2 ^ (4 * j) * (2 ^ 4 * 2 ^ (28 - 4 * j)) := by
    rw [← pow_add, ← pow_add]
    congr 1
    omega
  rw [responseCode, responseOperand, BitVec.extractLsb'_toNat, BitVec.extractLsb'_toNat, Nat.shiftRight_zero,
    Nat.shiftRight_eq_div_pow, h16, h32, Nat.mod_mul_right_div_self, Nat.mod_mul_right_mod]
  rfl

theorem responseCode_zero (j : Nat) : responseCode 0#32 j = 0#4 := BitVec.extractLsb'_zero

/-! ### The substitution of a code (45_classify_fixup.md R223) -/

/-- The code of a response action: its row in the response table. -/
def Response.code : Response → Nat
  | .preserveDst => 0
  | .passSrc => 1
  | .quietSrc => 2
  | .defaultNaN => 3
  | .negInfinity => 4
  | .posInfinity => 5
  | .signedInfinity => 6
  | .negZero => 7
  | .posZero => 8
  | .negOne => 9
  | .posOne => 10
  | .half => 11
  | .ninety => 12
  | .halfPi => 13
  | .maxFinite => 14
  | .minFinite => 15

theorem code_responseOf (code : BitVec 4) : (responseOf code).code = code.toNat := by
  revert code
  decide

theorem respond_eq_fixupValue (r : Response) (dst t : Lane p) : respond r dst t = fixupValue r.code dst t := by
  cases r with
  | preserveDst | passSrc | quietSrc | signedInfinity => cases p <;> rfl
  | defaultNaN | negInfinity | posInfinity | negZero | posZero | negOne | posOne | half | ninety | halfPi | maxFinite
  | minFinite => cases p <;> rfl

/-! ### The lane function -/

theorem fixupimm_eq (sc : StatusContext) (imm8 : BitVec 8) (dst src b : Lane p) :
    fixupimm sc imm8 dst src (responseOperand b) =
      { val := fixupValue (b.toNat / 16 ^ fixupToken (daz sc src) % 16) dst (daz sc src)
        flags := flagIf (fixupInvalid imm8 (daz sc src)) flagI ||| flagIf (fixupDivide imm8 (daz sc src)) flagZ } := by
  rw [fixupimm, respond_eq_fixupValue, code_responseOf, responseCode_toNat b (number_lt _), ← fixupToken_eq_number,
    faultBitSet_invalidBit, faultBitSet_divzBit]

/-- Response code 0 for every token and no fault mask: the prior destination, whatever the source. -/
theorem fixupimm_preserve (sc : StatusContext) (dst src : Lane p) : fixupimm sc 0#8 dst src 0#32 = quietly dst := by
  rw [fixupimm, responseCode_zero, faultBitSet_zero, faultBitSet_zero]
  rfl

/-- Settles O45: an active lane answers its lane function, which is the rules' token, nibble, response and fault mask. -/
theorem fixupByToken : Obligations.FixupByToken := by
  intro p form f s n hact t
  exact laneAnswers_ambient (op := .fixupimm) hact rfl rfl (congrArg LaneResult.ofValue (fixupimm_eq ..))

/-- Settles O46: every visited lane computes its prior destination and raises nothing, so the command is silent. -/
theorem fixupPreservePath : Obligations.FixupPreservePath := by
  intro p form f s himm hresp
  have hlane (n : Nat) (hn : n < form.loopLanes f.vl p) :
      laneResult p .fixupimm f s n = .ofValue (quietly (laneOf p s.dprior n)) := by
    have hzero : responseOperand (laneOf p s.b n) = 0#32 := hresp n hn
    calc laneResult p .fixupimm f s n
        = .ofValue (fixupimm (ambient s) f.imm8 (laneOf p s.dprior n) (laneOf p s.a n)
            (responseOperand (laneOf p s.b n))) := rfl
      _ = .ofValue (quietly (laneOf p s.dprior n)) := by rw [himm, hzero, fixupimm_preserve]
  obtain ⟨t, ht, h⟩ := exec_build_answer p form .fixupimm f s
  obtain ⟨hno, hff, -⟩ := h.silent (endContext_reported_of_no_flag fun n ⟨hn, _⟩ => by rw [hlane n hn]; rfl)
  refine ⟨t, ht, hno, hff, fun n ⟨hn, hact⟩ => ?_⟩
  rw [h.laneOf_result_of_lt rfl hno hn, resultLane_of_active hact, hlane n hn]
  rfl

end Sys2Proof.Machine
end

section
/-! SUPPORT. GETEXP and GETMANT: a finite lane other than zero is its significand, from 1 up to 2, times the power of two of
its exponent. The exponent is an integer of few enough bits to be a value of the format, and the significand and its half
are values of the format with the bits of the lane (46_getexp_getmant.md R240 to R245). -/

namespace Sys2Proof.Machine

variable {p : Prec} {form : Form} {f : Fields} {s : State} {n : Nat}

/-! ### The exponent and the significand of a lane (46_getexp_getmant.md R240, R242) -/

theorem magQ_cast (v : Lane p) : ((magQ v : ℚ) : ℝ) = magR v := by
  rw [magQ_eq_magUnits, magR]
  push_cast
  rfl

/-- `sig` of a finite lane other than zero: its magnitude divided by the power of two of its exponent. -/
def significand (v : Lane p) : ℚ := magQ v / 2 ^ exponentOf v

theorem significand_mul_zpow (v : Lane p) : significand v * 2 ^ exponentOf v = magQ v :=
  div_mul_cancel₀ _ (by positivity)

/-- The significand needs no exponent: it is the units of the lane divided by their own leading power of two. -/
theorem significand_eq_div (v : Lane p) : significand v = (magUnits v : ℚ) / 2 ^ (magUnits v).log2 := by
  rw [significand, exponentOf, log2At, magQ_eq_magUnits, zpow_add₀ two_ne_zero, zpow_natCast,
    mul_div_mul_right _ _ (by positivity)]

section Nonzero

variable {v : Lane p} (hz : isZero v = false)
include hz

theorem magUnits_pos : 0 < magUnits v :=
  Nat.pos_of_ne_zero (by rw [ne_eq, magUnits_eq_zero_iff, hz]; decide)

theorem exponentOf_bounds : (2 : ℚ) ^ exponentOf v ≤ magQ v ∧ magQ v < 2 ^ (exponentOf v + 1) := by
  obtain ⟨hlo, hhi⟩ := log2At_bounds p.unitExp (magUnits_pos hz)
  have hcast (e : ℤ) : (2 : ℝ) ^ e = ((2 ^ e : ℚ) : ℝ) := by push_cast; rfl
  have hmag : (magUnits v : ℝ) * 2 ^ p.unitExp = ((magQ v : ℚ) : ℝ) := (magQ_cast v).symm
  rw [hmag, hcast, Rat.cast_le] at hlo
  rw [hmag, hcast, Rat.cast_lt] at hhi
  exact ⟨hlo, hhi⟩

theorem significand_bounds : 1 ≤ significand v ∧ significand v < 2 := by
  obtain ⟨hlo, hhi⟩ := exponentOf_bounds hz
  rw [significand, le_div_iff₀ (by positivity), div_lt_iff₀ (by positivity), one_mul, ← zpow_one_add₀ two_ne_zero,
    add_comm 1]
  exact ⟨hlo, hhi⟩

/-- The exponents run from that of the smallest denormal to EMAX (46_getexp_getmant.md R241). -/
theorem exponentOf_range (hfin : isFinite v = true) :
    p.emin - (p.fb : ℤ) ≤ exponentOf v ∧ exponentOf v ≤ p.emax := by
  constructor
  · simp only [exponentOf, log2At, Prec.unitExp]
    omega
  · have hlo := (log2At_bounds p.unitExp (magUnits_pos hz)).1.trans_lt (magR_lt_zpow hfin)
    exact Int.lt_add_one_iff.1 ((zpow_lt_zpow_iff_right₀ (one_lt_two (α := ℝ))).1 hlo)

/-- Every exponent has fewer bits than the precision. -/
theorem natAbs_exponentOf_lt (hfin : isFinite v = true) : (exponentOf v).natAbs < 2 ^ p.sigBits := by
  obtain ⟨hlo, hhi⟩ := exponentOf_range hz hfin
  cases p <;> simp only [Prec.emin, Prec.emax, Prec.bias, Prec.fb, Prec.sigBits] at hlo hhi ⊢ <;> omega

end Nonzero

/-! ### Integers as lanes (46_getexp_getmant.md R241) -/

/-- An integer converted to the format. -/
def integerLane (p : Prec) (k : ℤ) : Lane p := if k = 0 then signedZero false else packExact (k < 0) k.natAbs 0

theorem integerLane_zero (p : Prec) : integerLane p 0 = signedZero false := if_pos rfl

/-- An integer of at most `p` bits is converted exactly. -/
theorem integerLane_spec {k : ℤ} (hk : k.natAbs < 2 ^ p.sigBits) :
    isFinite (integerLane p k) = true ∧ isDenorm (integerLane p k) = false ∧ valQ (integerLane p k) = k := by
  by_cases h0 : k = 0
  · subst h0
    have hzero : isZero (signedZero false : Lane p) = true := isZero_signedZero false
    rw [integerLane_zero, Int.cast_zero, valQ_eq_zero_iff]
    exact ⟨isFinite_of_expf_eq_zero (expf_signedZero false), isDenorm_eq_false_of_isZero hzero, hzero⟩
  · have hpos : 0 < k.natAbs := Int.natAbs_pos.2 h0
    have hmax : log2At k.natAbs 0 ≤ p.emax := by
      have hlog : k.natAbs.log2 < p.sigBits := (Nat.log2_lt hpos.ne').2 hk
      have hbits : (p.sigBits : ℤ) ≤ p.emax := by cases p <;> decide
      simp only [log2At]
      omega
    obtain ⟨hsign, hfin, hmag⟩ := packExact_spec (decide (k < 0)) hpos hmax hk (unitExp_neg p).le rfl
    rw [integerLane, if_neg h0]
    rw [zpow_zero, mul_one] at hmag
    refine ⟨hfin, Bool.eq_false_of_not_eq_true fun hd => ?_, ?_⟩
    · have hlt := (magR_bounds_of_isDenorm hd).2
      have hemin : (2 : ℝ) ^ p.emin ≤ 1 := zpow_le_one_of_nonpos₀ one_le_two (by cases p <;> decide)
      have hone : (1 : ℝ) ≤ k.natAbs := by exact_mod_cast hpos
      rw [hmag] at hlt
      linarith
    · have hreal : ((valQ (packExact (decide (k < 0)) k.natAbs 0 : Lane p) : ℚ) : ℝ) = (k : ℝ) := by
        have hneg : decide (k < 0) = decide ((k : ℝ) < 0) := decide_eq_decide.2 Int.cast_lt_zero.symm
        rw [valQ_cast, hsign, hmag, hneg, Nat.cast_natAbs, Int.cast_abs, toward_abs]
      exact_mod_cast hreal

/-! ### The significand as a lane (46_getexp_getmant.md R242 to R244) -/

/-- The significand of a lane, or its half, under a sign. -/
def mantissaLane (sgn halved : Bool) (v : Lane p) : Lane p :=
  packExact sgn (magUnits v) (p.unitExp - exponentOf v - if halved then 1 else 0)

/-- The significand and its half have the bits of the lane, and lie in the middle of the range of normal values. -/
theorem mantissaLane_spec (sgn halved : Bool) {v : Lane p} (hz : isZero v = false) :
    sign (mantissaLane sgn halved v) = sgn ∧ isFinite (mantissaLane sgn halved v) = true ∧
      |valQ (mantissaLane sgn halved v)| = if halved then significand v / 2 else significand v := by
  set h : ℤ := if halved then 1 else 0 with hh
  have hpos := magUnits_pos hz
  have hrange : 0 ≤ h ∧ h ≤ 1 := by cases halved <;> simp [hh]
  have hlog : log2At (magUnits v) (p.unitExp - exponentOf v - h) = -h := by
    simp only [exponentOf, log2At]
    omega
  have hemin : p.emin ≤ -1 ∧ 0 ≤ p.emax := by cases p <;> decide
  obtain ⟨j, i, hj, hv⟩ := magUnits_eq_mul_two_pow v
  have hbits : (magUnits v : ℝ) * 2 ^ (p.unitExp - exponentOf v - h) =
      j * 2 ^ (i + (p.unitExp - exponentOf v - h)) := by
    rw [hv, Nat.cast_mul, mul_assoc, two_pow_natCast_mul]
  have hnormal : (2 : ℝ) ^ p.emin ≤ j * 2 ^ (i + (p.unitExp - exponentOf v - h)) := by
    rw [← hbits, ← le_log2At_iff hpos, hlog]
    omega
  obtain ⟨j', w, hj', hw, heq⟩ := exists_fit_of_emin_le (p := p) hj.le hnormal
  obtain ⟨hsign, hfin, hmag⟩ := packExact_spec sgn hpos (by omega) hj' hw (hbits.trans heq)
  refine ⟨hsign, hfin, ?_⟩
  have hval : magQ (mantissaLane sgn halved v) = significand v / 2 ^ h := by
    have hreal : ((magQ (mantissaLane sgn halved v) : ℚ) : ℝ) = ((significand v / 2 ^ h : ℚ) : ℝ) := by
      rw [magQ_cast, mantissaLane, hmag, significand, magQ_eq_magUnits, zpow_sub₀ two_ne_zero, zpow_sub₀ two_ne_zero]
      push_cast
      ring
    exact_mod_cast hreal
  rw [abs_valQ, hval]
  cases halved <;> simp [hh]

/-- The two bits of `sign_ctrl`, one by one (46_getexp_getmant.md R244). -/
theorem signPolicy_immSignCtrl (imm8 : BitVec 8) (sgn : Bool) :
    signPolicy (immSignCtrl imm8) sgn =
      if imm8.getLsbD 3 then (if imm8.getLsbD 2 then !sgn else Config.getmantSignComputed sgn)
      else (if imm8.getLsbD 2 then false else sgn) := by
  have hctrl : immSignCtrl imm8 = BitVec.ofBool (imm8.getLsbD 3) ++ BitVec.ofBool (imm8.getLsbD 2) := by
    apply BitVec.eq_of_getLsbD_eq
    intro j hj
    rw [immSignCtrl, BitVec.getLsbD_extractLsb', BitVec.getLsbD_append]
    interval_cases j <;> simp
  rw [hctrl]
  cases imm8.getLsbD 3 <;> cases imm8.getLsbD 2 <;> rfl

/-- Interval code 3 halves the significands from 3/2 up (46_getexp_getmant.md R243). -/
theorem halvesSignificand_three (v : Lane p) (e : ℤ) :
    halvesSignificand 3#2 (magUnits v) e = decide (3 / 2 ≤ significand v) := by
  have hiff : 3 * 2 ^ (magUnits v).log2 ≤ 2 * magUnits v ↔ 3 / 2 ≤ significand v := by
    rw [significand_eq_div, div_le_div_iff₀ two_pos (by positivity), mul_comm (magUnits v : ℚ)]
    exact_mod_cast Iff.rfl
  exact decide_eq_decide.2 hiff

/-! ### The lane functions -/

section Finite

variable (sc : StatusContext) {a : Lane p} (hfin : isFinite (daz sc a) = true) (hz : isZero (daz sc a) = false)
include hfin hz

theorem getexp_of_isFinite :
    getexp sc a = { val := integerLane p (exponentOf (daz sc a)), flags := denormalFlag [daz sc a] } := by
  simp only [getexp, isNaN_eq_false_of_isFinite hfin, isInf_eq_false_of_isFinite hfin, hz, Bool.false_eq_true, if_false,
    denormalFlag_singleton, integerLane]

theorem getmant_of_isFinite (signCtrl intervalCtrl : BitVec 2) :
    getmant sc a signCtrl intervalCtrl =
      { val := mantissaLane (signPolicy signCtrl (sign (daz sc a)))
          (halvesSignificand intervalCtrl (magUnits (daz sc a)) (exponentOf (daz sc a))) (daz sc a)
        flags := denormalFlag [daz sc a] } := by
  simp only [getmant, isNaN_eq_false_of_isFinite hfin, isInf_eq_false_of_isFinite hfin, hz, Bool.or_self,
    Bool.false_eq_true, if_false, denormalFlag_singleton, mantissaLane]

end Finite

theorem isNaN_eq_false_of_isInf {v : Lane p} (h : isInf v = true) : isNaN v = false := by
  simp only [isInf, Bool.and_eq_true, beq_iff_eq] at h
  simp [isNaN, h.2]

theorem isNaN_eq_false_of_isZero {v : Lane p} (h : isZero v = true) : isNaN v = false := by
  simp only [isZero, Bool.and_eq_true, beq_iff_eq] at h
  exact isNaN_eq_false_of_expf_eq_zero h.1

theorem getexp_of_isInf (sc : StatusContext) {a : Lane p} (h : isInf (daz sc a) = true) :
    getexp sc a = quietly (infinity false) := by
  simp only [getexp, isNaN_eq_false_of_isInf h, h, Bool.false_eq_true, if_false, if_true]

theorem getexp_of_isZero (sc : StatusContext) {a : Lane p} (h : isZero (daz sc a) = true) :
    getexp sc a = quietly (infinity true) := by
  simp only [getexp, isNaN_eq_false_of_isZero h, isInf_eq_false_of_isZero h, h, Bool.false_eq_true, if_false, if_true]

theorem getmant_of_isZero_or_isInf (sc : StatusContext) {a : Lane p} (signCtrl intervalCtrl : BitVec 2)
    (h : isZero (daz sc a) = true ∨ isInf (daz sc a) = true) :
    getmant sc a signCtrl intervalCtrl = quietly (signedOne (signPolicy signCtrl (sign (daz sc a)))) := by
  have hnan : isNaN (daz sc a) = false := h.elim isNaN_eq_false_of_isZero isNaN_eq_false_of_isInf
  have hany : (isInf (daz sc a) || isZero (daz sc a)) = true := by rwa [Bool.or_eq_true, or_comm]
  simp only [getmant, hnan, hany, Bool.false_eq_true, if_false, if_true]

/-! ### The commands -/

theorem laneAnswers_getexp {r : LaneOut p} (hact : ActiveLane p form f s n)
    (hr : getexp (ambient s) (laneOf p s.a n) = r) :
    LaneAnswers p (Instr.build f .getexp p form) s n r.val r.flags :=
  laneAnswers_ambient hact rfl rfl (congrArg LaneResult.ofValue hr)

theorem laneAnswers_getmant {r : LaneOut p} (hact : ActiveLane p form f s n)
    (hr : getmant (ambient s) (laneOf p s.a n) (immSignCtrl f.imm8) (immInterval f.imm8) = r) :
    LaneAnswers p (Instr.build f .getmant p form) s n r.val r.flags :=
  laneAnswers_ambient hact rfl rfl (congrArg LaneResult.ofValue hr)

/-- Settles O47: the exponent of the flushed operand, converted to the format exactly. -/
theorem extractExponent : Obligations.ExtractExponent := by
  intro p form f s n hact v
  refine ⟨fun hzero => ?_, fun hinf => ?_, fun hfin hz => ?_⟩
  · exact laneAnswers_getexp hact (getexp_of_isZero _ hzero)
  · exact laneAnswers_getexp hact (getexp_of_isInf _ hinf)
  · obtain ⟨hlo, hhi⟩ := exponentOf_bounds hz
    obtain ⟨hmin, hmax⟩ := exponentOf_range hz hfin
    obtain ⟨hrfin, hrden, hrval⟩ := integerLane_spec (natAbs_exponentOf_lt hz hfin)
    rw [← abs_valQ] at hlo hhi
    exact ⟨exponentOf v, integerLane p (exponentOf v), hlo, hhi, hmin, hmax, hrfin, hrden, hrval,
      fun h => by rw [h, integerLane_zero], laneAnswers_getexp hact (getexp_of_isFinite _ hfin hz)⟩

/-- Settles O48: the significand of the flushed operand or its half, packed exactly under the sign the policy asks for. -/
theorem extractMantissa : Obligations.ExtractMantissa := by
  intro p form f s n hact v so
  have hso : signPolicy (immSignCtrl f.imm8) (sign v) = so := by
    rw [signPolicy_immSignCtrl]
    simp only [so]
    cases f.imm8.getLsbD 3 <;> cases f.imm8.getLsbD 2 <;> rfl
  refine ⟨fun hspecial => ?_, fun hfin hz => ?_⟩
  · rw [← hso]
    exact laneAnswers_getmant hact (getmant_of_isZero_or_isInf _ _ _ hspecial)
  · obtain ⟨hsig1, hsig2⟩ := significand_bounds hz
    obtain ⟨hsign, hrfin, hmag⟩ := mantissaLane_spec (signPolicy (immSignCtrl f.imm8) (sign v))
      (halvesSignificand (immInterval f.imm8) (magUnits v) (exponentOf v)) hz
    refine ⟨exponentOf v, significand v, _, by rw [abs_valQ, significand_mul_zpow], hsig1, hsig2, hrfin,
      hsign.trans hso, ?interval0, ?interval1, ?interval2, ?interval3,
      laneAnswers_getmant hact (getmant_of_isFinite _ hfin hz _ _)⟩
    all_goals
      intro hcode
      rw [hmag, immInterval, hcode]
    case interval0 => rfl
    case interval1 => simp [halvesSignificand]
    case interval2 => rfl
    case interval3 => simp [halvesSignificand_three]

theorem immInterval_eq_zero {imm8 : BitVec 8} (h : imm8.extractLsb' 0 4 = 0#4) : immInterval imm8 = 0#2 := by
  apply BitVec.eq_of_getLsbD_eq
  intro j hj
  have hbit := congrArg (fun x => x.getLsbD j) h
  simpa [immInterval, hj, (by omega : j < 4)] using hbit

/-- An operand is not flushed with DAZ off, nor where it is normal. -/
theorem operandA_eq_laneOf (h : s.ctrl.getLsbD 6 = false ∨ isNormal (laneOf p s.a n) = true) :
    operandA p s n = laneOf p s.a n := by
  rcases h with hdaz | hnormal
  · have hoff : (ambient s).daz = false := hdaz
    simp [operandA, daz, flushDenormal, hoff]
  · refine daz_of_not_isDenorm _ ?_
    simp only [isNormal, Bool.and_eq_true, bne_iff_ne] at hnormal
    simp [isDenorm, hnormal.1]

/-- Settles O49: GETMANT answers the significand and GETEXP the exponent of one and the same lane. -/
theorem extractorIdentity : Obligations.ExtractorIdentity := by
  intro p form f s n hact hfin hz hnoflush himm
  rw [← operandA_eq_laneOf hnoflush] at hfin hz ⊢
  obtain ⟨t, ht, hexp, -⟩ := laneAnswers_getexp hact (getexp_of_isFinite _ hfin hz)
  obtain ⟨u, hu, hmant, -⟩ := laneAnswers_getmant hact (getmant_of_isFinite _ hfin hz _ _)
  rw [immInterval_eq_zero himm] at hmant
  refine ⟨t, u, ht, hu, fun hft hfu => ⟨exponentOf (operandA p s n), ?_, ?_⟩⟩
  · obtain ⟨-, -, hval⟩ := integerLane_spec (natAbs_exponentOf_lt hz hfin)
    rw [hexp hft]
    exact hval
  · obtain ⟨-, -, hmag⟩ := mantissaLane_spec (signPolicy (immSignCtrl f.imm8) (sign (operandA p s n))) false hz
    have hmag' : |valQ (laneOf p u.result n)| = significand (operandA p s n) := by
      rw [hmant hfu]
      exact hmag
    rw [hmag', significand_mul_zpow, abs_valQ]

end Sys2Proof.Machine
end

section
/-! SUPPORT. RANGE: three equations of its lane function, by the NaNs among its operands; the selected operand by `Below`
of the values compared; and the sign by the two bits of `sign_ctrl` (47_range.md R250 to R253). -/

namespace Sys2Proof.Machine

variable {p : Prec} {form : Form} {f : Fields} {s : State} {n : Nat}

/-! ### The lane function, by the NaNs among its operands (47_range.md R250, R252) -/

section Operands

variable (sc : StatusContext) {a b : Lane p} (selectMax selectAbs : Bool) (signCtrl : BitVec 2)

theorem range_of_isSNaN (h : isSNaN (daz sc a) = true ∨ isSNaN (daz sc b) = true) :
    range sc a b selectMax selectAbs signCtrl = { val := daz sc b, flags := flagI } := by
  have hsnan : (isSNaN (daz sc a) || isSNaN (daz sc b)) = true := by rwa [Bool.or_eq_true]
  simp only [range, hsnan, if_true]

theorem range_of_isQNaN (ha : isSNaN (daz sc a) = false) (hb : isSNaN (daz sc b) = false)
    (h : isNaN (daz sc a) = true ∨ isNaN (daz sc b) = true) :
    range sc a b selectMax selectAbs signCtrl = quietly (rangeSign signCtrl (daz sc a) (daz sc b)) := by
  have hnan : (isNaN (daz sc a) || isNaN (daz sc b)) = true := by rwa [Bool.or_eq_true]
  simp only [range, ha, hb, hnan, Bool.or_self, Bool.false_eq_true, if_false, if_true]

theorem range_of_not_isNaN (ha : isNaN (daz sc a) = false) (hb : isNaN (daz sc b) = false) :
    range sc a b selectMax selectAbs signCtrl =
      { val := rangeSign signCtrl (daz sc a) (rangeSelect (daz sc a) (daz sc b) selectMax selectAbs)
        flags := denormalFlag [daz sc a, daz sc b] } := by
  simp only [range, isSNaN_eq_false_of_not_isNaN ha, isSNaN_eq_false_of_not_isNaN hb, ha, hb, Bool.or_self,
    Bool.false_eq_true, if_false, denormalFlag_pair]

end Operands

/-! ### The operand selected (47_range.md R250) -/

/-- What RANGE compares of an operand: its absolute value under `opselect[1]`. -/
def rangeKey (selectAbs : Bool) (v : Lane p) : Lane p := if selectAbs then absLane v else v

@[simp] theorem isNaN_rangeKey (selectAbs : Bool) (v : Lane p) : isNaN (rangeKey selectAbs v) = isNaN v := by
  cases selectAbs <;> simp [rangeKey, absLane, isNaN]

theorem rangeSelect_eq_ite (a b : Lane p) (selectMax selectAbs : Bool) :
    rangeSelect a b selectMax selectAbs =
      if order (rangeKey selectAbs a) (rangeKey selectAbs b) = (if selectMax then .gt else .lt) then a else b := by
  cases selectAbs <;> rfl

section Selection

variable {a b : Lane p} (ha : isNaN a = false) (hb : isNaN b = false) {selectAbs : Bool}
include ha hb

theorem order_rangeKey_eq_lt_iff :
    order (rangeKey selectAbs a) (rangeKey selectAbs b) = .lt ↔ Below (rangeKey selectAbs a) (rangeKey selectAbs b) :=
  order_eq_lt_iff _ _ ((isNaN_rangeKey _ _).trans ha) ((isNaN_rangeKey _ _).trans hb)

theorem order_rangeKey_eq_gt_iff :
    order (rangeKey selectAbs a) (rangeKey selectAbs b) = .gt ↔ Below (rangeKey selectAbs b) (rangeKey selectAbs a) :=
  order_eq_gt_iff _ _ ((isNaN_rangeKey _ _).trans ha) ((isNaN_rangeKey _ _).trans hb)

theorem rangeSelect_min_of_below (h : Below (rangeKey selectAbs a) (rangeKey selectAbs b)) :
    rangeSelect a b false selectAbs = a := by
  rw [rangeSelect_eq_ite]
  exact if_pos ((order_rangeKey_eq_lt_iff ha hb).2 h)

theorem rangeSelect_min_of_not_below (h : ¬ Below (rangeKey selectAbs a) (rangeKey selectAbs b)) :
    rangeSelect a b false selectAbs = b := by
  rw [rangeSelect_eq_ite]
  exact if_neg (mt (order_rangeKey_eq_lt_iff ha hb).1 h)

theorem rangeSelect_max_of_below (h : Below (rangeKey selectAbs b) (rangeKey selectAbs a)) :
    rangeSelect a b true selectAbs = a := by
  rw [rangeSelect_eq_ite]
  exact if_pos ((order_rangeKey_eq_gt_iff ha hb).2 h)

theorem rangeSelect_max_of_not_below (h : ¬ Below (rangeKey selectAbs b) (rangeKey selectAbs a)) :
    rangeSelect a b true selectAbs = b := by
  rw [rangeSelect_eq_ite]
  exact if_neg (mt (order_rangeKey_eq_gt_iff ha hb).1 h)

end Selection

/-! ### The sign (47_range.md R250, R253) -/

/-- The two bits of `sign_ctrl` as its field (30_encoding.md R80). -/
theorem immSignCtrl_eq_append (imm8 : BitVec 8) :
    immSignCtrl imm8 = BitVec.ofBool (imm8.getLsbD 3) ++ BitVec.ofBool (imm8.getLsbD 2) := by
  apply BitVec.eq_of_getLsbD_eq
  intro j hj
  rw [immSignCtrl, BitVec.getLsbD_extractLsb', BitVec.getLsbD_append]
  interval_cases j <;> simp

theorem rangeSign_immSignCtrl (imm8 : BitVec 8) (a r : Lane p) :
    rangeSign (immSignCtrl imm8) a r =
      if imm8.getLsbD 3 then withSign r (imm8.getLsbD 2)
      else if imm8.getLsbD 2 then r else withSign r (sign a) := by
  rw [immSignCtrl_eq_append]
  cases imm8.getLsbD 3 <;> cases imm8.getLsbD 2 <;> rfl

/-- Flushing a denormal keeps its sign (40_numerics.md R104). -/
@[simp] theorem sign_daz (sc : StatusContext) (v : Lane p) : sign (daz sc v) = sign v := by
  rw [daz, flushDenormal]
  split
  · exact sign_signedZero _
  · rfl

@[simp] theorem sign_rangeSign_zero (a r : Lane p) : sign (rangeSign 0#2 a r) = sign a := sign_withSign _ _

/-- Sign control 0 is applied on both paths that apply one: the quiet NaNs and the numbers. -/
theorem sign_range_of_signCtrl_zero (sc : StatusContext) {a b : Lane p} (selectMax selectAbs : Bool)
    (ha : isSNaN (daz sc a) = false) (hb : isSNaN (daz sc b) = false) :
    sign (range sc a b selectMax selectAbs 0#2).val = sign a := by
  by_cases hnan : isNaN (daz sc a) = true ∨ isNaN (daz sc b) = true
  · rw [range_of_isQNaN sc selectMax selectAbs 0#2 ha hb hnan, quietly, sign_rangeSign_zero, sign_daz]
  · simp only [not_or, Bool.not_eq_true] at hnan
    obtain ⟨hna, hnb⟩ := hnan
    rw [range_of_not_isNaN sc selectMax selectAbs 0#2 hna hnb, sign_rangeSign_zero, sign_daz]

/-! ### The command -/

theorem laneAnswers_range {r : LaneOut p} (hact : ActiveLane p form f s n)
    (hr : range (ambient s) (laneOf p s.a n) (laneOf p s.b n) (immSelectMax f.imm8) (immSelectAbs f.imm8)
      (immSignCtrl f.imm8) = r) :
    LaneAnswers p (Instr.build f .range p form) s n r.val r.flags :=
  laneAnswers_ambient hact rfl rfl (congrArg LaneResult.ofValue hr)

/-- Settles O39: each of the three ways of the lane function, with the selection by `Below` and the sign bit by bit. -/
theorem rangeSelection : Obligations.RangeSelection := by
  intro p form f s n hact a b ka kb signed
  have hsigned (r : Lane p) : rangeSign (immSignCtrl f.imm8) a r = signed r := by
    rw [rangeSign_immSignCtrl]
    simp only [signed]
    cases f.imm8.getLsbD 3 <;> cases f.imm8.getLsbD 2 <;> rfl
  have hselected {selectMax : Bool} {r : Lane p} (ha : isNaN a = false) (hb : isNaN b = false)
      (hmax : f.imm8.getLsbD 0 = selectMax) (hr : rangeSelect a b selectMax (f.imm8.getLsbD 1) = r) :
      LaneAnswers p (Instr.build f .range p form) s n (signed r) (denormalFlag [a, b]) := by
    rw [← hsigned, ← hr, ← hmax]
    exact laneAnswers_range hact (range_of_not_isNaN _ _ _ _ ha hb)
  refine ⟨fun hsnan => ?_, fun ha hb hnan => ?_, fun ha hb hmin => ⟨fun h => ?_, fun h => ?_⟩,
    fun ha hb hmax => ⟨fun h => ?_, fun h => ?_⟩⟩
  · exact laneAnswers_range hact (range_of_isSNaN _ _ _ _ hsnan)
  · rw [← hsigned]
    exact laneAnswers_range hact (range_of_isQNaN _ _ _ _ ha hb hnan)
  · exact hselected ha hb hmin (rangeSelect_min_of_below ha hb h)
  · exact hselected ha hb hmin (rangeSelect_min_of_not_below ha hb h)
  · exact hselected ha hb hmax (rangeSelect_max_of_below ha hb h)
  · exact hselected ha hb hmax (rangeSelect_max_of_not_below ha hb h)

/-- Settles O40: the active lane answers its lane function, whose sign is the first operand's. -/
theorem rangeKeepsTheFirstSign : Obligations.RangeKeepsTheFirstSign := by
  intro p form f s n hact hctrl ha hb
  obtain ⟨t, ht, hval, -⟩ := laneAnswers_range hact rfl
  refine ⟨t, ht, fun hno => ?_⟩
  rw [hval hno, immSignCtrl, hctrl]
  exact sign_range_of_signCtrl_zero _ _ _ ((isSNaN_daz _ _).trans ha) ((isSNaN_daz _ _).trans hb)

end Sys2Proof.Machine
end

section
/-! SUPPORT. The values of lanes among the five ways of `Rounded`: a value of the format neither overflows nor turns tiny by
being rounded, so that every way but the flushed one delivers it, and it determines the lane that holds it
(40_numerics.md R105, R112). -/

namespace Sys2Proof.Machine

variable {p : Prec}

/-! ### A lane is its sign and its value -/

theorem magUnits_lt (v : Lane p) : magUnits v < 2 ^ p.fb * 2 ^ expf v := by
  have hf := frac_lt v
  by_cases h : expf v = 0
  · rwa [magUnits_of_expf_eq_zero h, h, pow_zero, mul_one]
  · obtain ⟨e, he⟩ := Nat.exists_eq_succ_of_ne_zero h
    rw [magUnits_of_expf_ne_zero h, he, Nat.succ_sub_one, pow_succ, mul_comm (2 ^ e) 2, ← mul_assoc]
    exact Nat.mul_lt_mul_of_pos_right (by omega) (Nat.two_pow_pos e)

theorem le_magUnits {v : Lane p} (h : expf v ≠ 0) : 2 ^ p.fb * 2 ^ (expf v - 1) ≤ magUnits v := by
  rw [magUnits_of_expf_ne_zero h]
  exact Nat.mul_le_mul_right _ (Nat.le_add_right _ _)

theorem magUnits_lt_of_expf_lt {v w : Lane p} (h : expf v < expf w) : magUnits v < magUnits w :=
  calc magUnits v < 2 ^ p.fb * 2 ^ expf v := magUnits_lt v
    _ ≤ 2 ^ p.fb * 2 ^ (expf w - 1) := Nat.mul_le_mul_left _ (Nat.pow_le_pow_right two_pos (by omega))
    _ ≤ magUnits w := le_magUnits (by omega)

/-- A magnitude determines the exponent and the fraction field. -/
theorem fields_eq_of_magUnits_eq {v w : Lane p} (h : magUnits v = magUnits w) : expf v = expf w ∧ frac v = frac w := by
  have he : expf v = expf w :=
    le_antisymm (not_lt.1 fun hlt => (magUnits_lt_of_expf_lt hlt).ne' h)
      (not_lt.1 fun hlt => (magUnits_lt_of_expf_lt hlt).ne h)
  refine ⟨he, ?_⟩
  by_cases h0 : expf w = 0
  · rwa [magUnits_of_expf_eq_zero (he.trans h0), magUnits_of_expf_eq_zero h0] at h
  · rw [magUnits_of_expf_ne_zero (he ▸ h0), magUnits_of_expf_ne_zero h0, he] at h
    exact Nat.add_left_cancel (Nat.eq_of_mul_eq_mul_right (Nat.two_pow_pos _) h)

theorem magUnits_eq_of_magQ_eq {v w : Lane p} (h : magQ v = magQ w) : magUnits v = magUnits w := by
  rw [magQ_eq_magUnits, magQ_eq_magUnits, mul_left_inj' (by positivity)] at h
  exact_mod_cast h

/-- A value and, for the two zeros, its sign determine the lane. -/
theorem lane_eq_of_valQ_eq {v w : Lane p} (hs : sign v = sign w) (h : valQ v = valQ w) : v = w := by
  have hmag : magQ v = magQ w := by rw [← abs_valQ, h, abs_valQ]
  obtain ⟨he, hf⟩ := fields_eq_of_magUnits_eq (magUnits_eq_of_magQ_eq hmag)
  exact lane_ext hs he hf

theorem valQ_ne_zero {v : Lane p} (hz : isZero v = false) : valQ v ≠ 0 := by
  rw [ne_eq, valQ_eq_zero_iff, hz]
  decide

theorem sign_eq_of_not_isZero {v : Lane p} (hz : isZero v = false) : sign v = decide (valQ v < 0) := by
  obtain ⟨-, hs, -⟩ := signQ_mul_pos (magQ_pos hz) (sign v)
  rw [valQ_eq_signQ_mul, hs]

/-! ### The value of a lane is a value of the format -/

theorem fitsPrecision_neg {x : ℚ} (h : FitsPrecision p x) : FitsPrecision p (-x) := by
  obtain ⟨k, e, hk, rfl⟩ := h
  exact ⟨-k, e, by rwa [abs_neg], by rw [Int.cast_neg, neg_mul]⟩

theorem fitsPrecision_valQ (v : Lane p) : FitsPrecision p (valQ v) := by
  have h : FitsPrecision p (magQ v) := magQ_eq_magUnits v ▸ fitsPrecision_scaled v p.unitExp
  rw [valQ]
  split
  · exact fitsPrecision_neg h
  · exact h

theorem onDenormalGrid_valQ (v : Lane p) : OnDenormalGrid p (valQ v) := ⟨valUnits v, valQ_eq_valUnits v⟩

/-- What takes no more than `p` bits is rounded to itself, and reaches a power of two only by its own magnitude. -/
theorem reaches_iff_of_fitsPrecision {d : Direction} {e : ℤ} {x : ℚ} (hx : x ≠ 0) (h : FitsPrecision p x) :
    Reaches p d e ((|x| : ℚ) : ℝ) ↔ (2 : ℝ) ^ e ≤ ((|x| : ℚ) : ℝ) := by
  obtain ⟨l, hlo, hhi⟩ := exists_mem_Ico_zpow (by exact_mod_cast abs_pos.2 hx : (0 : ℝ) < ((|x| : ℚ) : ℝ)) one_lt_two
  rw [← zpow_le_roundAt_iff hlo hhi, (roundAt_eq_iff_fitsPrecision hlo hhi).2 h]

theorem not_overflows_valQ (rm : RoundingMode) {v : Lane p} (hfin : isFinite v = true) (hz : isZero v = false) :
    ¬ Overflows p rm (valQ v) := by
  rw [overflows_iff, reaches_iff_of_fitsPrecision (valQ_ne_zero hz) (fitsPrecision_valQ v), Rat.cast_abs, abs_valQ_cast,
    not_le]
  exact magR_lt_zpow hfin

theorem tinyAfterRounding_valQ_iff (rm : RoundingMode) {v : Lane p} (hz : isZero v = false) :
    TinyAfterRounding p rm (valQ v) ↔ magR v < 2 ^ p.emin := by
  have hne := valQ_ne_zero hz
  rw [tinyAfterRounding_iff, reaches_iff_of_fitsPrecision hne (fitsPrecision_valQ v), Rat.cast_abs, abs_valQ_cast,
    not_le, and_iff_right hne]

theorem zpow_emin_le_magR {v : Lane p} (h : expf v ≠ 0) : (2 : ℝ) ^ p.emin ≤ magR v := by
  have hsum : (p.fb : ℤ) + p.unitExp = p.emin := by simp [Prec.unitExp]
  rw [← hsum, ← two_pow_natCast_mul, magR, natCast_mul_zpow_le]
  exact (Nat.le_mul_of_pos_right _ (Nat.two_pow_pos _)).trans (le_magUnits h)

/-! ### Exact results -/

namespace Rounded

variable {sc : StatusContext} {x : ℚ} {r : LaneOut p}

/-- An exact value of the format is delivered wherever it neither overflows nor is flushed. -/
theorem valQ_eq (h : Rounded sc x r) (ho : ¬ Overflows p sc.roundingMode x)
    (hflush : sc.fuz = false ∨ ¬ TinyAfterRounding p sc.roundingMode x) (hfit : FitsPrecision p x)
    (hgrid : OnDenormalGrid p x) : valQ r.val = x := by
  cases h with
  | zero s hx hr => rw [hr, hx, quietly_val, valQ_eq_zero_iff, isZero_signedZero]
  | overflow _ hov => exact absurd hov ho
  | normal _ _ _ _ _ _ hval => exact hval.2 hfit
  | flushed _ htiny hfuz => exact absurd hflush (by simp [hfuz, htiny])
  | denormal _ _ _ _ _ _ _ _ _ hval => exact hval.2 hgrid

/-- Under nearest-even what does not overflow is finite. -/
theorem isFinite_of_nearest (h : Rounded sc x r) (hrn : sc.roundingMode = .rn) (hfuz : sc.fuz = false)
    (ho : ¬ Overflows p sc.roundingMode x) : isFinite r.val = true := by
  obtain ⟨hround, -⟩ := h.roundedTo (.inl hfuz)
  rw [hrn] at hround ho
  have hlt : |x| < overflowThreshold p := not_le.1 ho
  obtain ⟨hfin, -⟩ := hround.1 (by exact_mod_cast hlt)
  exact hfin

end Rounded

end Sys2Proof.Machine
end

section
/-! SUPPORT. RNDSCALE's answer as a multiple of `2^-M` in the terms of the statements, and the exactness of REDUCE under
nearest-even: there the difference is no greater than the operand, so that it needs no more bits
(48_round_reduce_scalef.md R261, R262, R265). -/

namespace Sys2Proof.Machine

variable {p : Prec} {form : Form} {f : Fields} {s : State} {n : Nat}

/-! ### A magnitude rounded to a multiple -/

/-- `y`, the multiple `j` of `q`, is the magnitude `x` rounded in a direction. -/
def MagnitudeRounded (d : Direction) (j : ℕ) (y x q : ℚ) : Prop :=
  y = j * q ∧
    match d with
    | .down => y ≤ x ∧ x < y + q
    | .up => x ≤ y ∧ y < x + q
    | .nearest => |x - y| ≤ q / 2 ∧ (|x - y| = q / 2 → Even j)

/-- On its side of zero the rounded magnitude is the number rounded under the mode. -/
theorem MagnitudeRounded.roundedToMultiple {rm : RoundingMode} {sgn : Bool} {j : ℕ} {y x q : ℚ} (hy : 0 ≤ y) (hx : 0 ≤ x)
    (h : MagnitudeRounded (rm.direction sgn) j y x q) : RoundedToMultiple rm (signQ sgn * y) (signQ sgn * x) q := by
  obtain ⟨hj, hround⟩ := h
  refine ⟨signed sgn j, by rw [signed_cast, hj, mul_assoc], ?_⟩
  have hprod := mul_nonneg hy hx
  cases sgn with
  | false =>
    simp only [signQ_mul, Bool.false_eq_true, if_false]
    cases rm with
    | rn => exact ⟨hround.1, fun htie => (hround.2 htie).natCast⟩
    | rd => exact hround
    | ru => exact hround
    | rz =>
      rw [abs_of_nonneg hy, abs_of_nonneg hx]
      exact ⟨hprod, hround⟩
  | true =>
    simp only [signQ_mul, if_true]
    cases rm with
    | rn =>
      rw [neg_sub_neg, abs_sub_comm]
      exact ⟨hround.1, fun htie => (hround.2 htie).natCast.neg⟩
    | rd => exact ⟨neg_le_neg hround.1, by linarith [hround.2]⟩
    | ru => exact ⟨neg_le_neg hround.1, by linarith [hround.2]⟩
    | rz =>
      rw [abs_neg, abs_neg, neg_mul_neg, abs_of_nonneg hy, abs_of_nonneg hx]
      exact ⟨hprod, hround⟩

theorem roundAt_up_lt {z : ℤ} {a : ℝ} (ha : 0 ≤ a) : roundAt .up z a < a + 2 ^ z := by
  have hle := floor_mul_zpow_le (z := z) ha
  have hz : (0 : ℝ) < 2 ^ z := by positivity
  rcases roundAt_cases (d := .up) (z := z) ha with hr | ⟨hr, hlt⟩ <;> linarith

theorem lt_roundAt_down_add {z : ℤ} {a : ℝ} : a < roundAt .down z a + 2 ^ z := by
  have h := lt_floor_add_one_mul_zpow (z := z) (a := a)
  rw [add_mul, one_mul] at h
  exact h

namespace HoldsMultiple

variable {sc : StatusContext} {m : ℕ} {t v : Lane p}

theorem magnitudeRounded (h : HoldsMultiple sc m t v) :
    ∃ j : ℕ, MagnitudeRounded (sc.direction (sign t)) j (magQ v) (magQ t) (1 / 2 ^ m) := by
  have ht := magR_nonneg t
  have hmag := h.magR_eq
  have hq : (2 : ℝ) ^ (-m : ℤ) = ((1 / 2 ^ m : ℚ) : ℝ) := by
    push_cast
    rw [zpow_neg, zpow_natCast, one_div]
  refine ⟨roundNat (sc.direction (sign t)) (magR t / 2 ^ (-m : ℤ)), ?_, ?_⟩
  · rw [← magQ_cast v, roundAt, hq] at hmag
    rw [hq]
    exact_mod_cast hmag
  generalize sc.direction (sign t) = d at hmag ⊢
  cases d with
  | down =>
    have hle := roundAt_down_le (z := -m) ht
    have hlt := lt_roundAt_down_add (z := -m) (a := magR t)
    rw [← hmag, ← magQ_cast, ← magQ_cast] at hle hlt
    rw [hq] at hlt
    exact ⟨by exact_mod_cast hle, by exact_mod_cast hlt⟩
  | up =>
    have hle := le_roundAt_up (z := -m) (a := magR t)
    have hlt := roundAt_up_lt (z := -m) ht
    rw [← hmag, ← magQ_cast, ← magQ_cast] at hle hlt
    rw [hq] at hlt
    exact ⟨by exact_mod_cast hle, by exact_mod_cast hlt⟩
  | nearest =>
    have hnear := roundAt_nearest (z := -m) ht
    have hdist : |magR t - magR v| = ((|magQ t - magQ v| : ℚ) : ℝ) := by
      rw [← magQ_cast, ← magQ_cast]
      push_cast
      rfl
    have hhalf : (2 : ℝ) ^ (-m : ℤ) / 2 = ((1 / 2 ^ m / 2 : ℚ) : ℝ) := by
      rw [hq]
      push_cast
      rfl
    rwa [← hmag, hdist, hhalf, Rat.cast_le, Rat.cast_inj] at hnear

theorem roundedToMultiple (h : HoldsMultiple sc m t v) :
    RoundedToMultiple sc.roundingMode (valQ v) (valQ t) (1 / 2 ^ m) := by
  obtain ⟨j, hj⟩ := h.magnitudeRounded
  rw [valQ_eq_signQ_mul v, valQ_eq_signQ_mul t, h.sign_eq]
  exact hj.roundedToMultiple (magQ_nonneg v) (magQ_nonneg t)

/-- The lane keeps its value exactly when its magnitude does. -/
theorem valQ_eq_iff (h : HoldsMultiple sc m t v) :
    valQ v = valQ t ↔ roundAt (sc.direction (sign t)) (-m) (magR t) = magR t := by
  rw [← Rat.cast_inj (α := ℝ), valQ_cast, valQ_cast, h.sign_eq, h.magR_eq]
  cases sign t
  · rfl
  · exact neg_inj

end HoldsMultiple

/-! ### RNDSCALE -/

theorem laneAnswers_rndscale {r : LaneOut p} (hact : ActiveLane p form f s n)
    (hr : roundToInt (overridden f s) (laneOf p s.a n) (immScale f.imm8) = r) :
    LaneAnswers p (Instr.build f .rndscale p form) s n r.val (r.flags &&& ~~~flagIf (f.imm8.getLsbD 3) flagP) := by
  have hlane : laneResult p .rndscale f s n = .ofValue r := congrArg LaneResult.ofValue hr
  refine laneAnswers_of_eq hact rfl (by rw [hlane, ofValue_val]) ?_
  rw [hlane, ofValue_flags, suppressFlags_commandContext_override (.inl rfl)]

theorem flagP_and_not_suppressed (b : Bool) : flagP &&& ~~~flagIf b flagP = flagIf (!b) flagP := by cases b <;> decide

/-- Infinities and zeros are multiples already (48_round_reduce_scalef.md R261). -/
theorem roundToInt_of_isInf_or_isZero (sc : StatusContext) {a : Lane p} (m : ℕ)
    (h : isInf (daz sc a) = true ∨ isZero (daz sc a) = true) : roundToInt sc a m = quietly (daz sc a) := by
  have hnan : isNaN a = false := by
    rw [← isNaN_daz sc]
    rcases h with hinf | hzero
    · rw [(isInf_iff _).1 hinf]
      simp [isNaN]
    · rw [(isZero_iff _).1 hzero]
      exact isNaN_eq_false_of_expf_eq_zero (expf_signedZero _)
  have hor : (isInf (daz sc a) || isZero (daz sc a)) = true := by rwa [Bool.or_eq_true]
  simp only [roundToInt, hnan, hor, Bool.false_eq_true, if_false, if_true]

/-- Settles O50: the rounded lane of `round_to_int`, whose `P` the suppression takes off or leaves. -/
theorem roundToScale : Obligations.RoundToScale := by
  intro p form f s n hact a
  have hdaz : daz (overridden f s) (laneOf p s.a n) = a := rfl
  refine ⟨fun hspecial => ?_, fun hfin hz => ?_⟩
  · have hans := laneAnswers_rndscale hact (roundToInt_of_isInf_or_isZero (overridden f s) (immScale f.imm8) hspecial)
    rwa [quietly_flags, BitVec.zero_and] at hans
  · obtain ⟨v, hv, hround⟩ := roundToInt_of_isFinite (overridden f s) (immScale_le f.imm8) hfin
    have hiff := hv.valQ_eq_iff
    rw [hdaz] at hv hround hiff
    refine ⟨v, _, laneAnswers_rndscale hact hround, hv.finite, hv.sign_eq, hv.roundedToMultiple, fun heq => ?_,
      fun hne => ?_⟩
    · rw [decide_eq_false (not_not.2 (hiff.1 heq)), flagIf_false, BitVec.zero_and]
    · rw [decide_eq_true (mt hiff.2 hne), flagIf_true, flagP_and_not_suppressed]

/-! ### REDUCE under nearest-even -/

/-- Zero is a multiple as well, so the distance to the nearest one is no more than the magnitude. -/
theorem RoundedToMultiple.abs_sub_le_abs {x y q : ℚ} (h : RoundedToMultiple .rn y x q) (hq : 0 < q) :
    |x - y| ≤ |x| := by
  obtain ⟨k, hk, hhalf, -⟩ := h
  by_cases h0 : k = 0
  · rw [hk, h0, Int.cast_zero, zero_mul, sub_zero]
  · have hone : (1 : ℚ) ≤ |(k : ℚ)| := by exact_mod_cast Int.one_le_abs h0
    have hstep : q ≤ |y| := by
      rw [hk, abs_mul, abs_of_pos hq]
      exact le_mul_of_one_le_left hq.le hone
    have htri := abs_sub_abs_le_abs_sub y x
    rw [abs_sub_comm] at htri
    linarith

/-- The difference of a value of the format and the nearest multiple of `2^-m` is a multiple of the value's last place, or
of `2^-m` where that is finer, and no greater than either allows. -/
theorem RoundedToMultiple.fitsPrecision_sub {x y : ℚ} {m : ℕ} (h : RoundedToMultiple .rn y x (1 / 2 ^ m))
    (hx : FitsPrecision p x) : FitsPrecision p (x - y) := by
  have hle := h.abs_sub_le_abs (by positivity)
  obtain ⟨k, hk, hhalf, -⟩ := h
  obtain ⟨i, e, hi, rfl⟩ := hx
  have hq : (1 / 2 ^ m : ℚ) = 2 ^ (-m : ℤ) := by rw [zpow_neg, zpow_natCast, one_div]
  rw [hq] at hk hhalf
  subst hk
  rcases le_total e (-m) with hem | hem
  · obtain ⟨c, hc⟩ : ∃ c : ℕ, (-m : ℤ) = c + e := ⟨(-m - e).toNat, by omega⟩
    have hsub : (i : ℚ) * 2 ^ e - k * 2 ^ (-m : ℤ) = ((i - k * 2 ^ c : ℤ) : ℚ) * 2 ^ e := by
      rw [hc, zpow_add₀ two_ne_zero, zpow_natCast]
      push_cast
      ring
    rw [hsub] at hle ⊢
    rw [abs_mul, abs_mul, mul_le_mul_iff_left₀ (abs_pos.2 (by positivity))] at hle
    exact ⟨_, e, lt_of_le_of_lt (by exact_mod_cast hle) hi, rfl⟩
  · obtain ⟨c, rfl⟩ : ∃ c : ℕ, e = c + (-m : ℤ) := ⟨(e - -m).toNat, by omega⟩
    have hsub : (i : ℚ) * 2 ^ ((c : ℤ) + -m) - k * 2 ^ (-m : ℤ) = ((i * 2 ^ c - k : ℤ) : ℚ) * 2 ^ (-m : ℤ) := by
      rw [zpow_add₀ two_ne_zero, zpow_natCast]
      push_cast
      ring
    have hpos : (0 : ℚ) < 2 ^ (-m : ℤ) := by positivity
    rw [hsub] at hhalf ⊢
    rw [abs_mul, abs_of_pos hpos] at hhalf
    have hlt : |((i * 2 ^ c - k : ℤ) : ℚ)| < 1 := by nlinarith
    exact ⟨_, _, lt_of_lt_of_le (by exact_mod_cast hlt) (one_le_pow₀ one_le_two), rfl⟩

/-- The subtraction inside `reduce` delivers the exact difference (48_round_reduce_scalef.md R265). -/
theorem reduce_of_nearest {sc : StatusContext} {a : Lane p} (imm8 : BitVec 8) (ha : isFinite (daz sc a) = true)
    (hrn : sc.roundingMode = .rn) (hfuz : sc.fuz = false) :
    ∃ y, RoundedToMultiple .rn y (valQ (daz sc a)) (1 / 2 ^ immScale imm8) ∧
      isFinite (reduce sc a imm8).val = true ∧ valQ (reduce sc a imm8).val = valQ (daz sc a) - y := by
  obtain ⟨v, hv, hred⟩ := reduce_of_isFinite sc imm8 ha
  have hmult := hv.roundedToMultiple
  have ho := hv.not_overflows_sub sc.roundingMode
  have hsum := rounded_roundSum (p := p) sc (reduceUnits_cast (daz sc a) v) (sign (daz sc a)) (!sign (daz sc a))
  rw [hrn] at hmult
  have hfit := hmult.fitsPrecision_sub (fitsPrecision_valQ (daz sc a))
  refine ⟨valQ v, hmult, ?_⟩
  rw [hred, raise_val, raise_val]
  exact ⟨hsum.isFinite_of_nearest hrn hfuz ho, hsum.valQ_eq ho (.inl hfuz) hfit ⟨_, reduceUnits_cast _ _⟩⟩

/-- Settles O52: the exact difference, with the bounds of the nearest multiple. -/
theorem reduceIsExactUnderNearest : Obligations.ReduceIsExactUnderNearest := by
  intro p form f s n hact hfin hrn hfuz
  obtain ⟨y, ⟨k, hk, hhalf, htie⟩, hvfin, hval⟩ :=
    reduce_of_nearest (sc := overridden f s) (a := laneOf p s.a n) f.imm8 hfin hrn hfuz
  have hpos : (0 : ℚ) < 2 ^ immScale f.imm8 := by positivity
  have hle (w : ℚ) : 2 * w * 2 ^ immScale f.imm8 ≤ 1 ↔ w ≤ 1 / 2 ^ immScale f.imm8 / 2 := by
    rw [le_div_iff₀ two_pos, le_div_iff₀ hpos, mul_comm w 2]
  have heq (w : ℚ) : 2 * w * 2 ^ immScale f.imm8 = 1 ↔ w = 1 / 2 ^ immScale f.imm8 / 2 := by
    rw [eq_div_iff two_ne_zero, eq_div_iff hpos.ne', mul_comm w 2]
  rw [← hval] at hhalf htie
  rw [hk, mul_one_div] at hval
  exact ⟨_, _, k, laneAnswers_of_eq hact rfl rfl rfl, hvfin, hval, (hle _).2 hhalf, fun h => htie ((heq _).1 h)⟩

end Sys2Proof.Machine
end

section
/-! SUPPORT. SCALEF by a zero rounds the value of its first operand, which is a value of the format already
(48_round_reduce_scalef.md R268). -/

namespace Sys2Proof.Machine

variable {p : Prec} {form : Form} {f : Fields} {s : State} {n : Nat}

theorem isFinite_eq_true_of_isNormal {v : Lane p} (h : isNormal v = true) : isFinite v = true := by
  simp only [isNormal, Bool.and_eq_true] at h
  exact h.2

theorem expf_ne_zero_of_isNormal {v : Lane p} (h : isNormal v = true) : expf v ≠ 0 := by
  simp only [isNormal, Bool.and_eq_true, bne_iff_ne] at h
  exact h.1

theorem isZero_eq_false_of_expf_ne_zero {v : Lane p} (h : expf v ≠ 0) : isZero v = false := by simp [isZero, h]

theorem isDenorm_eq_false_of_expf_ne_zero {v : Lane p} (h : expf v ≠ 0) : isDenorm v = false := by simp [isDenorm, h]

theorem isZero_eq_false_of_isDenorm {v : Lane p} (h : isDenorm v = true) : isZero v = false :=
  Bool.eq_false_of_not_eq_true fun hz => by rw [isDenorm_eq_false_of_isZero hz] at h; cases h

theorem operandB_of_isZero (h : isZero (laneOf p s.b n) = true) : operandB p s n = laneOf p s.b n :=
  daz_of_not_isDenorm _ (isDenorm_eq_false_of_isZero h)

/-- SCALEF by a zero answers a finite operand other than zero itself, wherever it is not flushed, with the flags of rounding
its value. -/
theorem scalef_answers_operand (hact : ActiveLane p form f s n) (hb : isZero (laneOf p s.b n) = true)
    (hfin : isFinite (operandA p s n) = true) (hz : isZero (operandA p s n) = false)
    (hflush : (ambient s).fuz = false ∨
      ¬ TinyAfterRounding p (ambient s).roundingMode (valQ (operandA p s n))) :
    ∃ r : LaneOut p, Rounded (ambient s) (valQ (operandA p s n)) r ∧
      LaneAnswers p (Instr.build f .scalef p form) s n (operandA p s n)
        (flagIf (isDenorm (operandA p s n)) flagD ||| r.flags) := by
  have hzero : isZero (operandB p s n) = true := by rwa [operandB_of_isZero hb]
  have hbfin : isFinite (operandB p s n) = true := by
    rw [(isZero_iff _).1 hzero]
    exact isFinite_of_expf_eq_zero (expf_signedZero _)
  have hx : exactValue .scalef (valQ (operandA p s n)) (valQ (operandB p s n)) (valQ (operandC p s n)) =
      some (valQ (operandA p s n)) := by
    simp [exactValue, (valQ_eq_zero_iff _).2 hzero]
  obtain ⟨r, hr, hans⟩ := laneAnswers_rounded hact
    (forall_mem_operandList.2 ⟨hfin, fun _ => hbfin, fun h => absurd h (by decide)⟩) (fun h => absurd h (by decide)) hx
  have hval := hr.valQ_eq (not_overflows_valQ _ hfin hz) hflush (fitsPrecision_valQ _) (onDenormalGrid_valQ _)
  obtain ⟨-, hsign⟩ := hr.roundedTo hflush
  have hself : r.val = operandA p s n :=
    lane_eq_of_valQ_eq ((hsign (valQ_ne_zero hz)).trans (sign_eq_of_not_isZero hz).symm) hval
  have hden : denormalFlag (operands p .scalef s n) = flagIf (isDenorm (operandA p s n)) flagD := by
    change denormalFlag [operandA p s n, operandB p s n] = _
    rw [denormalFlag_pair, isDenorm_eq_false_of_isZero hzero, Bool.or_false]
  rw [hself, hden] at hans
  exact ⟨r, hr, hans⟩

/-- A normal operand is not tiny, so that nothing of the state matters. -/
theorem scalef_answers_of_isNormal (hact : ActiveLane p form f s n) (hb : isZero (laneOf p s.b n) = true)
    (ha : isNormal (laneOf p s.a n) = true) :
    LaneAnswers p (Instr.build f .scalef p form) s n (laneOf p s.a n) 0#6 := by
  have hself := operandA_eq_laneOf (p := p) (s := s) (n := n) (.inr ha)
  rw [← hself] at ha ⊢
  have hexp := expf_ne_zero_of_isNormal ha
  have hfin := isFinite_eq_true_of_isNormal ha
  have hz := isZero_eq_false_of_expf_ne_zero hexp
  have htiny : ¬ TinyAfterRounding p (ambient s).roundingMode (valQ (operandA p s n)) := by
    rw [tinyAfterRounding_valQ_iff _ hz, not_lt]
    exact zpow_emin_le_magR hexp
  obtain ⟨r, hr, hans⟩ := scalef_answers_operand hact hb hfin hz (.inr htiny)
  obtain ⟨inexact, hix, hfl⟩ := hr.flags_of_neither (not_overflows_valQ _ hfin hz) htiny
  have hexact : inexact = false := Bool.eq_false_of_not_eq_true fun h => hix.1 h (fitsPrecision_valQ _)
  rw [hfl, hexact, isDenorm_eq_false_of_expf_ne_zero hexp, flagIf_false, flagIf_false, BitVec.zero_or] at hans
  exact hans

/-- A denormal operand is tiny and exact: `U` is raised only where it is unmasked (40_numerics.md R117). -/
theorem scalef_answers_of_isDenorm (hact : ActiveLane p form f s n) (hb : isZero (laneOf p s.b n) = true)
    (ha : isDenorm (laneOf p s.a n) = true) (hdaz : (ambient s).daz = false) (hfuz : (ambient s).fuz = false) :
    LaneAnswers p (Instr.build f .scalef p form) s n (laneOf p s.a n)
      (flagD ||| flagIf (!s.ctrl.getLsbD 11) flagU) := by
  have hself := operandA_eq_laneOf (p := p) (s := s) (n := n) (.inl hdaz)
  rw [← hself] at ha ⊢
  have hfin := isFinite_of_expf_eq_zero (expf_eq_zero_of_isDenorm ha)
  have hz := isZero_eq_false_of_isDenorm ha
  obtain ⟨r, hr, hans⟩ := scalef_answers_operand hact hb hfin hz (.inl hfuz)
  obtain ⟨inexact, offGrid, hix, hog, hfl⟩ :=
    hr.flags_of_tiny ((tinyAfterRounding_valQ_iff _ hz).2 (magR_bounds_of_isDenorm ha).2) hfuz
  have hexact : inexact = false := Bool.eq_false_of_not_eq_true fun h => hix.1 h (fitsPrecision_valQ _)
  have hongrid : offGrid = false := Bool.eq_false_of_not_eq_true fun h => hog.1 h (onDenormalGrid_valQ _)
  rw [hexact, hongrid, flagIf_false, flagIf_false, BitVec.or_zero, underflowMasked_ambient] at hfl
  have hU : r.flags = flagIf (!s.ctrl.getLsbD 11) flagU := by
    rw [hfl]
    cases s.ctrl.getLsbD 11 <;> rfl
  rwa [ha, flagIf_true, hU] at hans

/-- The one lane of a scalar form that raises nothing does not fault. -/
theorem LaneAnswers.of_scalar_silent {op : Op} {v : Lane p}
    (h : LaneAnswers p (Instr.build f op p .scalar) s n v 0#6) :
    ∃ t, exec (Instr.build f op p .scalar) s = .next t ∧ t.finalFlags = 0#6 ∧ t.fault = false ∧
      laneOf p t.result n = v := by
  obtain ⟨t, ht, hval, -, -, -, -, hlone⟩ := h
  obtain ⟨hff, hfault⟩ := hlone (build_form _ _ _ _)
  have hno : t.fault = false := by rw [hfault, BitVec.zero_and]; rfl
  exact ⟨t, ht, by rw [hff, reportedFlags_zero], hno, hval hno⟩

/-- Settles O54: a normal operand is rounded to itself in silence, a denormal one on its own grid. -/
theorem scaleByZeroIsIdentity : Obligations.ScaleByZeroIsIdentity := by
  intro p form f s n hact hb
  refine ⟨fun ha => ⟨scalef_answers_of_isNormal hact hb ha, ?_⟩, scalef_answers_of_isDenorm hact hb⟩
  rintro rfl
  exact (scalef_answers_of_isNormal hact hb ha).of_scalar_silent

end Sys2Proof.Machine
end

section
/-! SUPPORT. The answer of a command bit by bit: what FAULT and CTRL_OUT say of the reported flags, that a suppressed
flag is not among them, and that sticky flags standing in CTRL reach none of it (60_exceptions.md R310,
43_status_context.md R179). -/

namespace Sys2Proof.Machine

variable {p : Prec} {form : Form} {op : Op} {f : Fields} {s t u : State} {j : Nat}

/-! ### FAULT and CTRL_OUT by the reported flags -/

namespace CommandAnswer

/-- FAULT says exactly that a reported flag is unmasked in the control register the command was issued with. -/
theorem fault_iff (h : CommandAnswer p form op f s t) :
    t.fault = true ↔ ∃ j < 6, t.finalFlags.getLsbD j = true ∧ s.ctrl.getLsbD (7 + j) = false := by
  obtain ⟨-, hmask⟩ := mergeBack (endContext p form op f s) 0 (by decide)
  rw [h.fault_eq, hmask, h.finalFlags_eq, exceptionMasks_endContext]
  exact exists_congr fun j => and_congr_right fun hj => by rw [getLsbD_ctrlMasks _ hj]

theorem getLsbD_ctrlOut (h : CommandAnswer p form op f s t) (hj : j < 16) :
    t.ctrlOut.getLsbD j = (s.ctrl.getLsbD j || t.finalFlags.getLsbD j) := by
  rw [h.ctrlOut_eq, getLsbD_mergedCtrl _ _ hj, h.finalFlags_eq]

/-- A flag the command suppresses is not reported. -/
theorem getLsbD_finalFlags_of_suppressed (h : CommandAnswer p form op f s t)
    (hsup : (commandContext op f s).suppressFlags.getLsbD j = true) : t.finalFlags.getLsbD j = false := by
  refine Bool.eq_false_of_not_eq_true fun hff => ?_
  have hj : j < 6 := BitVec.lt_of_getLsbD hff
  rw [h.finalFlags_eq] at hff
  obtain ⟨hno, -⟩ := (endContext_reported hj).1 (within_iff.1 (finalFlags_within_reported _) j hj hff)
  rw [hsup] at hno
  cases hno

end CommandAnswer

/-- Settles O10: the two facts about the response are facts of the one answer that every instruction gives. -/
theorem everyInstructionResponds : Obligations.EveryInstructionResponds := by
  intro i s
  obtain ⟨t, ht, h⟩ := exec_build_answer i.prec i.form i.op i.fields s
  rw [build_parts] at ht
  exact ⟨t, ht, h.fault_iff, fun _ hj => h.getLsbD_ctrlOut hj⟩

/-! ### Sticky flags standing in CTRL -/

/-- Two states that hold the same on every input port, and in CTRL the same but for the sticky flags. -/
structure SameButStickyFlags (s u : State) : Prop where
  high_eq : s.ctrl.extractLsb' 6 10 = u.ctrl.extractLsb' 6 10
  a_eq : s.a = u.a
  b_eq : s.b = u.b
  c_eq : s.c = u.c
  dprior_eq : s.dprior = u.dprior
  k_eq : s.k = u.k

namespace SameButStickyFlags

variable (h : SameButStickyFlags s u)
include h

theorem laneResult_eq : laneResult p op f s = laneResult p op f u := by
  funext n
  simp only [laneResult, commandContext_eq_of_high_eq op f h.high_eq, State.laneArgs, h.a_eq, h.b_eq, h.c_eq,
    h.dprior_eq]

theorem endContext_eq : endContext p form op f s = endContext p form op f u := by
  simp only [endContext, commandContext_eq_of_high_eq op f h.high_eq, h.laneResult_eq, h.k_eq]

theorem resultLane_eq : resultLane p op f s = resultLane p op f u := by
  funext n
  simp only [resultLane, h.laneResult_eq, h.dprior_eq, h.k_eq]

theorem resultBit_eq : resultBit p op f s = resultBit p op f u := by
  funext n
  simp only [resultBit, h.laneResult_eq, h.k_eq]

variable {v : State} (hs : CommandAnswer p form op f s t) (hu : CommandAnswer p form op f u v)
include hs hu

theorem finalFlags_eq : t.finalFlags = v.finalFlags := by rw [hs.finalFlags_eq, hu.finalFlags_eq, h.endContext_eq]

theorem fault_eq : t.fault = v.fault := by rw [hs.fault_eq, hu.fault_eq, h.endContext_eq]

/-- The result port the operation drives holds the same. -/
theorem result_eq (hno : t.fault = false) : if op.isMask then t.kresult = v.kresult else t.result = v.result := by
  have hno' : v.fault = false := (h.fault_eq hs hu).symm.trans hno
  cases hm : op.isMask with
  | false =>
    change t.result = v.result
    rw [hs.result_eq hm hno, hu.result_eq hm hno', h.resultLane_eq]
  | true =>
    change t.kresult = v.kresult
    rw [hs.kresult_eq hm hno, hu.kresult_eq hm hno', h.resultBit_eq]

end SameButStickyFlags

/-- Settles O20: no lane and no part of the merge-back but CTRL_OUT reads the sticky flags of CTRL. -/
theorem oldStickyFlagsChangeNothing : Obligations.OldStickyFlagsChangeNothing := by
  intro i s c hc
  obtain ⟨t, ht, hs⟩ := exec_build_answer i.prec i.form i.op i.fields s
  obtain ⟨u, hu, hans⟩ := exec_build_answer i.prec i.form i.op i.fields { s with ctrl := c }
  rw [build_parts] at ht hu
  have hsame : SameButStickyFlags s { s with ctrl := c } := ⟨hc.symm, rfl, rfl, rfl, rfl, rfl⟩
  exact ⟨t, u, ht, hu, hs.fault_iff, fun _ hsup => hs.getLsbD_finalFlags_of_suppressed hsup,
    hsame.finalFlags_eq hs hans, hsame.fault_eq hs hans, hsame.result_eq hs hans⟩

end Sys2Proof.Machine
end

section
/-! SUPPORT. CMP: the predicate table row by row, the lane function by the relation that holds, and the same with the
operands exchanged (49_compare.md R280 to R284). -/

namespace Sys2Proof.Machine

variable {p : Prec} {form : Form} {f : Fields} {s : State} {n : Nat}

/-! ### The predicates (49_compare.md R282) -/

/-- The upper half of the table is the lower one with `sig` flipped. -/
theorem predicateOf_xor_sixteen (j : BitVec 5) :
    predicateOf (j ^^^ 16#5) = { predicateOf j with signaling := !(predicateOf j).signaling } := by
  revert j
  decide

/-- Where `lt` and `gt` agree the predicate cannot tell an order from the opposite one. -/
theorem Predicate.onOrder_swap {q : Predicate} (h : q.lt = q.gt) (o : Ordering) : q.onOrder o.swap = q.onOrder o := by
  cases o with
  | lt => exact h.symm
  | eq => rfl
  | gt => exact h

/-! ### The lane function (49_compare.md R280) -/

section LaneFunction

variable (sc : StatusContext) {a b : Lane p} (q : Predicate)

theorem cmp_of_isNaN (h : isNaN a = true ∨ isNaN b = true) :
    cmp sc a b q = { bit := q.un, flags := flagIf (q.signaling || isSNaN a || isSNaN b) flagI } := by
  have hnan : (isNaN a || isNaN b) = true := by simpa using h
  simp [cmp, hnan]

theorem cmp_of_not_isNaN (ha : isNaN a = false) (hb : isNaN b = false) :
    cmp sc a b q =
      { bit := q.onOrder (order (daz sc a) (daz sc b)), flags := denormalFlag [daz sc a, daz sc b] } := by
  simp [cmp, ha, hb, denormalFlag_pair]

/-- Where `lt` and `gt` agree the operands may be exchanged (49_compare.md R284). -/
theorem cmp_comm {q : Predicate} (hq : q.lt = q.gt) (a b : Lane p) : cmp sc b a q = cmp sc a b q := by
  by_cases h : isNaN a = true ∨ isNaN b = true
  · rw [cmp_of_isNaN sc q h, cmp_of_isNaN sc q h.symm, Bool.or_right_comm]
  · obtain ⟨ha, hb⟩ : isNaN a = false ∧ isNaN b = false := by simpa using h
    rw [cmp_of_not_isNaN sc q ha hb, cmp_of_not_isNaN sc q hb ha, order_swap, Predicate.onOrder_swap hq,
      denormalFlag_pair, denormalFlag_pair, Bool.or_comm]

end LaneFunction

/-- An active lane of CMP answers its lane function, in the ambient context. -/
theorem bitAnswers_cmp {r : BitOut} (hact : ActiveLane p form f s n)
    (hr : cmp (ambient s) (laneOf p s.a n) (laneOf p s.b n) (predicateOf (immPredicate f.imm8)) = r) :
    BitAnswers (Instr.build f .cmp p form) s n r.bit r.flags := by
  subst hr
  exact bitAnswers_build .cmp form f s n rfl hact

/-! ### The statements -/

/-- Settles O41: `order` is `Below`, and its three values are the three relations of operands that are no NaN. -/
theorem comparison : Obligations.Comparison := by
  intro p form f s n hact a b q
  have hna : isNaN (laneOf p s.a n) = isNaN a := (isNaN_daz _ _).symm
  have hnb : isNaN (laneOf p s.b n) = isNaN b := (isNaN_daz _ _).symm
  have hsa : isSNaN (laneOf p s.a n) = isSNaN a := (isSNaN_daz _ _).symm
  have hsb : isSNaN (laneOf p s.b n) = isSNaN b := (isSNaN_daz _ _).symm
  refine ⟨fun h => ?_, fun ha hb => ?_⟩
  · rw [← hna, ← hnb] at h
    rw [← hsa, ← hsb]
    exact bitAnswers_cmp hact (cmp_of_isNaN _ q h)
  · have hans : BitAnswers (Instr.build f .cmp p form) s n (q.onOrder (order a b)) (denormalFlag [a, b]) :=
      bitAnswers_cmp hact (cmp_of_not_isNaN _ q (hna.trans ha) (hnb.trans hb))
    have hlt : order a b = .lt ↔ Below a b := order_eq_lt_iff a b ha hb
    have hgt : order a b = .gt ↔ Below b a := order_eq_gt_iff a b ha hb
    refine ⟨fun h => ?_, fun h => ?_, fun hnlt hngt => ?_⟩
    · rwa [hlt.2 h] at hans
    · rwa [hgt.2 h] at hans
    · have heq : order a b = .eq := by
        cases ho : order a b with
        | lt => exact absurd (hlt.1 ho) hnlt
        | eq => rfl
        | gt => exact absurd (hgt.1 ho) hngt
      rwa [heq] at hans

/-- Settles O43: every lane compares the same two operands, and its predicate cannot tell their order. -/
theorem symmetricComparison : Obligations.SymmetricComparison := by
  intro p form f s hq
  refine sameAnswer_of_laneResult_eq rfl rfl rfl fun n _ => ?_
  exact congrArg LaneResult.ofBit (cmp_comm (ambient s) hq (laneOf p s.b n) (laneOf p s.a n))

end Sys2Proof.Machine

namespace Sys2Proof

/-- Settles O42: the rows of the lower half stand in the table as the spec lists them. The theorem stands outside
`Machine`, where the table itself has this name. -/
theorem predicateTable : Obligations.PredicateTable :=
  ⟨Machine.predicateOf_xor_sixteen, rfl, rfl, rfl, rfl, rfl, rfl, rfl, rfl, rfl, rfl, rfl, rfl, rfl, rfl, rfl, rfl⟩

end Sys2Proof
end

section
/-! SUPPORT. `I` and `Z` of every lane function against the tables of 60_exceptions.md R302 and R304, and what a command
reports of them: neither is suppressed and both are pre-computational, so that merge-back drops neither. -/

namespace Sys2Proof.Machine

variable {p : Prec} {form : Form} {op : Op} {f : Fields} {s t : State} {j : Nat}

/-! ### Reporting a pre-computational flag (43_status_context.md R176, R178) -/

/-- A pre-computational flag is reported exactly when an active lane raises it. -/
theorem CommandAnswer.getLsbD_finalFlags_iff (h : CommandAnswer p form op f s t) (hj : j < 3) :
    t.finalFlags.getLsbD j = true ↔
      ∃ n, ActiveLane p form f s n ∧ (laneResult p op f s n).flags.getLsbD j = true := by
  obtain ⟨b, hsup⟩ := suppressFlags_commandContext op f s
  have hno : (commandContext op f s).suppressFlags.getLsbD j = false := by
    rw [hsup, getLsbD_flagIf_flagP, decide_eq_false (by omega), Bool.false_and]
  rw [h.finalFlags_eq, finalFlags_eq_reportedFlags, getLsbD_reportedFlags, endContext_reported (by omega)]
  simp only [hno, hj, true_or, true_and, and_true]

/-- Where the lane function of an operation raises a pre-computational flag by a rule about its flushed operands, the
command reports the flag by that rule. -/
theorem CommandAnswer.getLsbD_finalFlags_iff_of_rule (h : CommandAnswer p form op f s t) (hj : j < 3)
    {R : Lane p → Lane p → Lane p → Prop}
    (hrule : ∀ sc x, (laneOp op sc f.imm8 x).flags.getLsbD j = true ↔ R (daz sc x.a) (daz sc x.b) (daz sc x.c)) :
    t.finalFlags.getLsbD j = true ↔
      ∃ n, ActiveLane p form f s n ∧ R (operandA p s n) (operandB p s n) (operandC p s n) := by
  rw [h.getLsbD_finalFlags_iff hj]
  simp only [laneResult, hrule, daz_commandContext]
  rfl

/-! ### Single flags -/

theorem getLsbD_flagIf_flagI (b : Bool) (j : Nat) : (flagIf b flagI).getLsbD j = (decide (j = 0) && b) := by
  have hI : flagI = BitVec.twoPow 6 0 := rfl
  cases b with
  | false => simp
  | true => simp [hI, BitVec.getLsbD_twoPow, eq_comm]

theorem getLsbD_flagIf_flagZ (b : Bool) (j : Nat) : (flagIf b flagZ).getLsbD j = (decide (j = 2) && b) := by
  have hZ : flagZ = BitVec.twoPow 6 2 := rfl
  cases b with
  | false => simp
  | true => simp [hZ, BitVec.getLsbD_twoPow, eq_comm]

theorem NumericFlags.getLsbD_zero {l : List (Lane p)} {fl : Flags} (h : NumericFlags op l fl) :
    fl.getLsbD 0 = false := by
  obtain ⟨e, he, rfl⟩ := h
  have hbit : e.getLsbD 0 = false := he.getLsbD_eq_false (by decide) (by
    rw [BitVec.getLsbD_and]
    exact Bool.and_false _)
  rw [BitVec.getLsbD_or, hbit, Bool.false_or, getLsbD_denormalFlag]
  rfl

/-- FIXUPIMM raises what its token asks for, by the bits of the immediate byte (45_classify_fixup.md R222). -/
theorem fixupimm_flags (sc : StatusContext) (imm8 : BitVec 8) (x : LaneArgs p) :
    (laneOp .fixupimm sc imm8 x).flags =
      flagIf (fixupInvalid imm8 (daz sc x.a)) flagI ||| flagIf (fixupDivide imm8 (daz sc x.a)) flagZ :=
  congrArg LaneOut.flags (fixupimm_eq sc imm8 x.dst x.a x.b)

/-! ### Invalid (60_exceptions.md R302) -/

/-- Of a NaN operand most operations raise `I` exactly where an operand is a signaling one. -/
def signalingFlag (l : List (Lane p)) : Flags := flagIf (l.any isSNaN) flagI

theorem getLsbD_signalingFlag (l : List (Lane p)) :
    (signalingFlag l).getLsbD 0 = true ↔ ∃ v ∈ l, isSNaN v = true := by
  rw [signalingFlag, getLsbD_flagIf_flagI, decide_eq_true rfl, Bool.true_and, List.any_eq_true]

theorem prop2_flags (a b : Lane p) : (prop2 a b).flags = signalingFlag [a, b] := by simp [prop2, signalingFlag]

theorem prop3_flags (a b c : Lane p) : (prop3 a b c).flags = signalingFlag [a, b, c] := by
  simp [prop3, signalingFlag, Bool.or_assoc]

theorem prop1_flags_daz (sc : StatusContext) (a : Lane p) : (prop1 a).flags = signalingFlag [daz sc a] := by
  simp [signalingFlag]

theorem range_flags_of_isNaN (sc : StatusContext) {a b : Lane p} (h : isNaN a = true ∨ isNaN b = true)
    (selectMax selectAbs : Bool) (signCtrl : BitVec 2) :
    (range sc a b selectMax selectAbs signCtrl).flags = signalingFlag [daz sc a, daz sc b] := by
  have hnan : (isNaN a || isNaN b) = true := by simpa using h
  cases hs : isSNaN a || isSNaN b with
  | true => simp [range, signalingFlag, hs]
  | false => simp [range, signalingFlag, hs, hnan]

section NaNOperand

variable (sc : StatusContext) (imm8 : BitVec 8) (x : LaneArgs p)

/-- Every operation of the rule but MIN, MAX and CMP raises `I` for a signaling NaN among its operands and for no other
NaN. -/
theorem laneOp_flags_eq_signalingFlag (hop : FollowsFlagRule op) (hown : ¬ (op = .min ∨ op = .max ∨ op = .cmp))
    (h : ∃ v ∈ operandList op (daz sc x.a) (daz sc x.b) (daz sc x.c), isNaN v = true) :
    (laneOp op sc imm8 x).flags = signalingFlag (operandList op (daz sc x.a) (daz sc x.b) (daz sc x.c)) := by
  obtain ⟨h1, h2, h3⟩ := hop
  have hnan := exists_isNaN_operandList sc x h
  have hfma (hop : isFma op) (h : isNaN x.a = true ∨ isNaN x.b = true ∨ isNaN x.c = true) :
      (laneOp op sc imm8 x).flags = signalingFlag [daz sc x.a, daz sc x.b, daz sc x.c] := by
    rw [laneOp_of_isFma hop, fmaCore_of_isNaN sc _ _ h, ofValue_flags, prop3_flags]
  have htwo (hop : op = .add ∨ op = .sub ∨ op = .mul ∨ op = .div ∨ op = .scalef)
      (h : isNaN x.a = true ∨ isNaN x.b = true) :
      (laneOp op sc imm8 x).flags = signalingFlag [daz sc x.a, daz sc x.b] := by
    rw [laneOp_of_isNaN sc imm8 x hop h, ofValue_flags, prop2_flags]
  have hone (hop : op = .sqrt ∨ op = .getexp ∨ op = .getmant ∨ op = .rndscale) (h : isNaN x.a = true) :
      (laneOp op sc imm8 x).flags = signalingFlag [daz sc x.a] := by
    rw [laneOp_of_isNaN_one sc imm8 x hop h, ofValue_flags, prop1_flags_daz]
  cases op with
  | fpclass => exact absurd rfl h1
  | fixupimm => exact absurd rfl h2
  | rndscale => exact absurd rfl h3
  | min | max | cmp => exact absurd (by simp) hown
  | add | sub | mul | div | scalef => exact htwo (by simp) (by simpa [Op.readsB, Op.readsC] using hnan)
  | fmadd | fmsub | fnmadd | fnmsub => exact hfma (by simp [isFma]) (by simpa [Op.readsB, Op.readsC] using hnan)
  | sqrt | getexp | getmant => exact hone (by simp) (by simpa [Op.readsB, Op.readsC] using hnan)
  | reduce =>
    have ha : isNaN x.a = true := by simpa [Op.readsB, Op.readsC] using hnan
    exact (congrArg LaneOut.flags (reduce_of_isNaN sc imm8 ha)).trans (prop1_flags_daz sc _)
  | range => exact range_flags_of_isNaN sc (by simpa [Op.readsB, Op.readsC] using hnan) _ _ _

/-- The table's rows for those operations come to their first entry where an operand is a NaN. -/
theorem raisesInvalid_iff_of_isNaN {a b c : Lane p} (hop : FollowsFlagRule op)
    (hown : ¬ (op = .min ∨ op = .max ∨ op = .cmp)) (h : ∃ v ∈ operandList op a b c, isNaN v = true) :
    RaisesInvalid op imm8 a b c ↔ ∃ v ∈ operandList op a b c, isSNaN v = true := by
  obtain ⟨h1, h2, -⟩ := hop
  have hno : ¬ ((∀ v ∈ operandList op a b c, isNaN v = false) ∧ InvalidOperands op a b c) := by
    rintro ⟨hno, -⟩
    obtain ⟨v, hv, hn⟩ := h
    rw [hno v hv] at hn
    cases hn
  cases op with
  | fpclass => exact absurd rfl h1
  | fixupimm => exact absurd rfl h2
  | min | max | cmp => exact absurd (by simp) hown
  | add | sub | mul | div | sqrt | fmadd | fmsub | fnmadd | fnmsub | getexp | getmant | range | reduce | rndscale
  | scalef => exact or_iff_left hno

/-- A lane with a NaN operand raises `I` by the table. -/
theorem laneOp_invalid_iff_of_isNaN (hop : FollowsFlagRule op)
    (h : ∃ v ∈ operandList op (daz sc x.a) (daz sc x.b) (daz sc x.c), isNaN v = true) :
    (laneOp op sc imm8 x).flags.getLsbD 0 = true ↔
      RaisesInvalid op imm8 (daz sc x.a) (daz sc x.b) (daz sc x.c) := by
  by_cases hown : op = .min ∨ op = .max ∨ op = .cmp
  · have hab : isNaN x.a = true ∨ isNaN x.b = true := by
      have hnan := exists_isNaN_operandList sc x h
      rcases hown with rfl | rfl | rfl <;> simpa [Op.readsB, Op.readsC] using hnan
    rcases hown with rfl | rfl | rfl
    · have hfl : (laneOp .min sc imm8 x).flags = flagI := congrArg LaneOut.flags (min_of_isNaN sc hab)
      rw [hfl]
      exact iff_of_true rfl (by simpa [RaisesInvalid] using hab)
    · have hfl : (laneOp .max sc imm8 x).flags = flagI := congrArg LaneOut.flags (max_of_isNaN sc hab)
      rw [hfl]
      exact iff_of_true rfl (by simpa [RaisesInvalid] using hab)
    · have hfl : (laneOp .cmp sc imm8 x).flags = flagIf _ flagI :=
        congrArg BitOut.flags (cmp_of_isNaN sc (predicateOf (immPredicate imm8)) hab)
      rw [hfl, getLsbD_flagIf_flagI]
      simp only [RaisesInvalid, isNaN_daz, isSNaN_daz, hab, and_true, Bool.or_eq_true, decide_true, Bool.true_and]
      rw [or_assoc, or_comm, or_assoc]
  · rw [laneOp_flags_eq_signalingFlag sc imm8 x hop hown h, getLsbD_signalingFlag,
      raisesInvalid_iff_of_isNaN imm8 hop hown h]

end NaNOperand

theorem rndscale_invalid_iff (sc : StatusContext) (imm8 : BitVec 8) (x : LaneArgs p) :
    (laneOp .rndscale sc imm8 x).flags.getLsbD 0 = true ↔
      RaisesInvalid .rndscale imm8 (daz sc x.a) (daz sc x.b) (daz sc x.c) := by
  have hrow : RaisesInvalid .rndscale imm8 (daz sc x.a) (daz sc x.b) (daz sc x.c) ↔ isSNaN x.a = true := by
    simp [RaisesInvalid, InvalidOperands, operandList, Op.readsB, Op.readsC]
  rw [hrow]
  cases hs : isSNaN x.a with
  | true =>
    have hnan : isNaN x.a = true := by
      rw [isSNaN, Bool.and_eq_true] at hs
      exact hs.1
    rw [laneOp_of_isNaN_one sc imm8 x (by simp) hnan, ofValue_flags, prop1_flags, hs]
    exact iff_of_true rfl rfl
  | false =>
    have hbit : (laneOp .rndscale sc imm8 x).flags.getLsbD 0 = false :=
      (rndscale_within_of_not_isSNaN sc imm8 hs).getLsbD_eq_false (by decide) rfl
    rw [hbit]

/-- A lane function raises `I` exactly by the table of 60_exceptions.md R302. -/
theorem laneOp_invalid_iff (op : Op) (sc : StatusContext) (imm8 : BitVec 8) (x : LaneArgs p) :
    (laneOp op sc imm8 x).flags.getLsbD 0 = true ↔
      RaisesInvalid op imm8 (daz sc x.a) (daz sc x.b) (daz sc x.c) := by
  by_cases hop : FollowsFlagRule op
  · by_cases hnan : ∃ v ∈ operandList op (daz sc x.a) (daz sc x.b) (daz sc x.c), isNaN v = true
    · exact laneOp_invalid_iff_of_isNaN sc imm8 x hop hnan
    · have hnan' : ∀ v ∈ operandList op (daz sc x.a) (daz sc x.b) (daz sc x.c), isNaN v = false :=
        fun v hv => Bool.eq_false_of_not_eq_true fun h => hnan ⟨v, hv, h⟩
      by_cases hinv : InvalidOperands op (daz sc x.a) (daz sc x.b) (daz sc x.c)
      · rw [laneOp_invalid sc imm8 x hnan' hinv, ofValue_flags, invalid_flags]
        exact iff_of_true rfl (raisesInvalid_of_invalidOperands imm8 hnan' hinv)
      · rw [(laneOp_numericFlags hop sc imm8 x hnan' hinv).getLsbD_zero]
        exact iff_of_false Bool.false_ne_true (not_raisesInvalid hop imm8 hnan' hinv)
  · rcases not_followsFlagRule_iff.1 hop with rfl | rfl | rfl
    · have hfl : (laneOp .fpclass sc imm8 x).flags = 0#6 := rfl
      rw [hfl, BitVec.getLsbD_zero]
      exact iff_of_false Bool.false_ne_true id
    · rw [fixupimm_flags, BitVec.getLsbD_or, getLsbD_flagIf_flagI, getLsbD_flagIf_flagZ]
      simp [RaisesInvalid]
    · exact rndscale_invalid_iff sc imm8 x

/-- Settles O23: the lanes raise `I` by the table, and a command reports each `I` of an active lane. -/
theorem invalidExactlyWhen : Obligations.InvalidExactlyWhen := by
  intro op p form f s
  obtain ⟨t, ht, h⟩ := exec_build_answer p form op f s
  exact ⟨t, ht, h.getLsbD_finalFlags_iff_of_rule (by decide) fun sc x => laneOp_invalid_iff op sc f.imm8 x⟩

/-! ### Divide-by-zero (60_exceptions.md R304) -/

/-- Where no row of the table of special operands applies DIV rounds a quotient, and its divisor is no zero. -/
theorem div_of_specialValue_eq_none (sc : StatusContext) {a b c : Lane p} (ha : isNaN a = false) (hb : isNaN b = false)
    (h : specialValue .div (daz sc a) (daz sc b) c = none) :
    isZero (daz sc b) = false ∧ ∃ s m, div sc a b = (roundPack sc s m).raise (denormalFlag [daz sc a, daz sc b]) := by
  simp only [specialValue] at h
  split_ifs at h with hrow hrow'
  simp only [Bool.or_eq_true, not_or, Bool.not_eq_true] at hrow hrow'
  obtain ⟨hia, hzb⟩ := hrow
  obtain ⟨hib, hza⟩ := hrow'
  refine ⟨hzb, sign (daz sc a) ^^ sign (daz sc b), .quot (magUnits (daz sc a)) (magUnits (daz sc b)) 0, ?_⟩
  simp only [div, isNaN_daz, ha, hb, hia, hib, hza, hzb, Bool.or_self, Bool.and_self, Bool.false_eq_true, if_false,
    denormalFlag_pair]

theorem getLsbD_two_raise_denormalFlag (r : LaneOut p) (l : List (Lane p)) :
    (r.raise (denormalFlag l)).flags.getLsbD 2 = r.flags.getLsbD 2 := by
  rw [raise_flags, BitVec.getLsbD_or, getLsbD_denormalFlag]
  exact Bool.or_false _

/-- DIV raises `Z` exactly for a finite dividend other than zero over a zero. -/
theorem laneOp_div_divide_iff (sc : StatusContext) (imm8 : BitVec 8) (x : LaneArgs p) :
    (laneOp .div sc imm8 x).flags.getLsbD 2 = true ↔
      isFinite (daz sc x.a) = true ∧ isZero (daz sc x.a) = false ∧ isZero (daz sc x.b) = true := by
  by_cases hnan : isNaN x.a = true ∨ isNaN x.b = true
  · rw [laneOp_of_isNaN sc imm8 x (by simp) hnan, ofValue_flags, prop2, getLsbD_flagIf_flagI]
    refine iff_of_false Bool.false_ne_true fun ⟨hfin, _, hzero⟩ => ?_
    have ha : isNaN x.a = false := (isNaN_daz sc _).symm.trans (isNaN_eq_false_of_isFinite hfin)
    have hb : isNaN x.b = false := (isNaN_daz sc _).symm.trans (isNaN_eq_false_of_isZero hzero)
    simp [ha, hb] at hnan
  obtain ⟨ha, hb⟩ : isNaN x.a = false ∧ isNaN x.b = false := by simpa using hnan
  have hnan' : ∀ v ∈ operandList .div (daz sc x.a) (daz sc x.b) (daz sc x.c), isNaN v = false :=
    forall_mem_operandList.2 ⟨by rw [isNaN_daz, ha], fun _ => by rw [isNaN_daz, hb], fun h => absurd h (by decide)⟩
  by_cases hinv : InvalidOperands .div (daz sc x.a) (daz sc x.b) (daz sc x.c)
  · rw [laneOp_invalid sc imm8 x hnan' hinv, ofValue_flags, invalid_flags]
    refine iff_of_false (by decide) fun ⟨hfin, hza, hzb⟩ => ?_
    rcases hinv with ⟨hz, -⟩ | ⟨hi, -⟩
    · rw [hza] at hz
      cases hz
    · rw [isInf_eq_false_of_isFinite hfin] at hi
      cases hi
  cases hrow : specialValue .div (daz sc x.a) (daz sc x.b) (daz sc x.c) with
  | some v =>
    rw [laneOp_special sc imm8 x hnan' hinv hrow, ofValue_flags, getLsbD_two_raise_denormalFlag,
      getLsbD_flagIf_flagZ]
    simp [and_assoc]
  | none =>
    obtain ⟨hzb, sgn, m, hdiv⟩ := div_of_specialValue_eq_none sc ha hb hrow
    have hfl : (laneOp .div sc imm8 x).flags = (div sc x.a x.b).flags := rfl
    rw [hfl, hdiv, getLsbD_two_raise_denormalFlag, (within_roundPack sc sgn m).getLsbD_eq_false (by decide) rfl, hzb]
    simp

/-- A lane function raises `Z` exactly by 60_exceptions.md R304. -/
theorem laneOp_divide_iff (op : Op) (sc : StatusContext) (imm8 : BitVec 8) (x : LaneArgs p) :
    (laneOp op sc imm8 x).flags.getLsbD 2 = true ↔ RaisesDivide op imm8 (daz sc x.a) (daz sc x.b) := by
  have hnever (hposs : (possibleFlags op).getLsbD 2 = false) (hrow : ¬ RaisesDivide op imm8 (daz sc x.a) (daz sc x.b)) :
      (laneOp op sc imm8 x).flags.getLsbD 2 = true ↔ RaisesDivide op imm8 (daz sc x.a) (daz sc x.b) := by
    rw [(laneOp_within_possibleFlags op sc imm8 x).getLsbD_eq_false (by decide) hposs]
    exact iff_of_false Bool.false_ne_true hrow
  cases op with
  | div =>
    rw [laneOp_div_divide_iff]
    simp [RaisesDivide]
  | fixupimm =>
    rw [fixupimm_flags, BitVec.getLsbD_or, getLsbD_flagIf_flagI, getLsbD_flagIf_flagZ]
    simp [RaisesDivide]
  | add | sub | mul | min | max | sqrt | fmadd | fmsub | fnmadd | fnmsub | fpclass | getexp | getmant | range | reduce
  | rndscale | scalef | cmp => exact hnever rfl (by simp [RaisesDivide])

/-- Settles O25: the lanes raise `Z` by the rule, a command reports each `Z` of an active lane, and the lane function of
GETEXP tests for a zero before it takes an exponent. -/
theorem divideByZeroExactlyWhen : Obligations.DivideByZeroExactlyWhen := by
  intro op p form f s
  obtain ⟨t, ht, h⟩ := exec_build_answer p form op f s
  refine ⟨t, ht, ?_, ?_⟩
  · exact h.getLsbD_finalFlags_iff_of_rule (R := fun a b _ => RaisesDivide op f.imm8 a b) (by decide)
      fun sc x => laneOp_divide_iff op sc f.imm8 x
  · rintro rfl hno n ⟨hn, hact⟩ hzero
    rw [h.laneOf_result_of_lt rfl hno hn, resultLane_of_active hact]
    exact congrArg LaneOut.val (getexp_of_isZero (ambient s) hzero)

end Sys2Proof.Machine
end

section
/-! SUPPORT. Around a command: FPCORE waits without one, its ports after reset show a response that reports nothing, and
the harness takes the response of a command it issued (70_reset_and_hazards.md R343, R344; 60_exceptions.md R312,
R317). -/

namespace Sys2Proof.Machine

/-! ### Waiting and reset -/

/-- Settles O6: with no word on the port there is nothing to decode, and reset leaves the port empty. -/
theorem waitsForACommand : Obligations.WaitsForACommand := by
  refine ⟨fun s hcmd => ?_, rfl⟩
  simp only [step, State.fetch, hcmd]

/-- A response that reports no flag and does not fault is consistent. -/
theorem responseConsistent_of_silent {s : State} (hff : s.finalFlags = 0#6) (hno : s.fault = false) :
    ResponseConsistent s := by
  refine ⟨?_, ?_, fun _ => ?_⟩
  · rw [hno, hff, BitVec.zero_and]
    rfl
  · rw [hff, BitVec.zero_and]
  · rw [hff, BitVec.zero_and]

/-- Settles O56: the output ports of the reset state report nothing. -/
theorem resetResponseConsistent : Obligations.ResetResponseConsistent := responseConsistent_of_silent rfl rfl

/-! ### Names (92_eei_decisions.md D41) -/

section Names

variable {α : Type} {m name : Nat}

@[simp] theorem lookupName_storeName_self (name : Nat) (v : α) (l : List (Nat × α)) :
    lookupName name (storeName name v l) = some v := by
  induction l with
  | nil => simp [storeName, lookupName]
  | cons x rest ih => by_cases h : x.1 = name <;> simp [storeName, lookupName, h, ih]

theorem lookupName_storeName_of_ne (hm : m ≠ name) (v : α) (l : List (Nat × α)) :
    lookupName m (storeName name v l) = lookupName m l := by
  induction l with
  | nil => simp [storeName, lookupName, hm.symm]
  | cons x rest ih =>
    by_cases h : x.1 = name
    · simp [storeName, lookupName, h, hm.symm]
    · simp [storeName, lookupName, h, ih]

end Names

/-! ### Taking a response -/

section Take

variable {h : Harness} {i : Instr} {dst m : Nat} {t : State} {rest : List Action}

theorem Harness.take_of_fault (hf : t.fault = true) :
    h.take i dst t rest = { h with core := t, program := rest, stopped := true } := by
  rw [Harness.take, hf, if_pos rfl]

theorem Harness.take_of_isMask (hno : t.fault = false) (hm : i.op.isMask = true) :
    h.take i dst t rest = { h with core := t, program := rest, masks := storeName dst t.kresult h.masks } := by
  rw [Harness.take, hno, if_neg Bool.false_ne_true, hm, if_pos rfl]

theorem Harness.take_of_not_isMask (hno : t.fault = false) (hm : i.op.isMask = false) :
    h.take i dst t rest =
      { h with core := t, program := rest, containers := storeName dst ⟨i.fields.vl, t.result⟩ h.containers } := by
  rw [Harness.take, hno, if_neg Bool.false_ne_true, hm, if_neg Bool.false_ne_true]

theorem Harness.take_stopped (hno : t.fault = false) : (h.take i dst t rest).stopped = h.stopped := by
  cases hm : i.op.isMask with
  | false => rw [take_of_not_isMask hno hm]
  | true => rw [take_of_isMask hno hm]

/-- A response taken changes no container and no mask of another name. -/
theorem Harness.lookupName_take_of_ne (hno : t.fault = false) (hne : m ≠ dst) :
    lookupName m (h.take i dst t rest).masks = lookupName m h.masks ∧
      lookupName m (h.take i dst t rest).containers = lookupName m h.containers := by
  cases hm : i.op.isMask with
  | false =>
    rw [take_of_not_isMask hno hm]
    exact ⟨rfl, lookupName_storeName_of_ne hne _ _⟩
  | true =>
    rw [take_of_isMask hno hm]
    exact ⟨lookupName_storeName_of_ne hne _ _, rfl⟩

theorem Harness.step_of_stopped (hst : h.stopped = true) : h.step = .fault .stoppedByFpFault := by
  rw [Harness.step, hst, if_pos rfl]

end Take

/-! ### Issuing a command -/

section Issue

variable {h : Harness} {w : CmdWord} {dst a b c k : Nat} {rest : List Action} {i : Instr} {s t : State}

/-- A command presented is on the port. -/
theorem Harness.present_cmd (hp : h.present i w dst a b c k = some s) : s.cmd = some w := by
  simp only [Harness.present, Option.bind_eq_bind, Option.bind_eq_some_iff, Option.pure_def, Option.some.injEq] at hp
  obtain ⟨va, -, vb, -, vc, -, vd, -, vk, -, rfl⟩ := hp
  rfl

/-- A legal command whose operands are there is executed, and its response is taken. -/
theorem Harness.step_of_command (hgo : h.stopped = false) (hprog : h.program = .command w dst a b c k :: rest)
    (hdec : decode w = .ok i) (hp : h.present i w dst a b c k = some s) (hex : exec i s = .next t) :
    h.step = .next (h.take i dst t rest) := by
  have hstep : Sys2Proof.Machine.step s = .next t :=
    (stepRunsTheDecodedInstruction s w i (present_cmd hp) hdec).trans hex
  simp only [Harness.step, hgo, hprog, hdec, hp, hstep, Bool.false_eq_true, if_false]

end Issue

/-- Settles O58: a response with FAULT = 1 is taken without a store, and stops the run. -/
theorem faultLeavesTheDestination : Obligations.FaultLeavesTheDestination := by
  intro h w dst a b c k rest i s t hgo hprog hdec hp hex hf
  refine ⟨_, Harness.step_of_command hgo hprog hdec hp hex, ?_⟩
  rw [Harness.take_of_fault hf]
  exact ⟨rfl, rfl, (commandAnswer_of_exec hex).ctrl_eq, Harness.step_of_stopped rfl⟩

/-- Settles O59: a response with FAULT = 0 is stored under the one name, as a mask or as a container. -/
theorem resultIsStored : Obligations.ResultIsStored := by
  intro h w dst a b c k rest i s t hgo hprog hdec hp hex hno
  refine ⟨_, Harness.step_of_command hgo hprog hdec hp hex, ?_, Harness.take_program .., ?_, fun hm => ?_, fun hm => ?_,
    fun m hne => Harness.lookupName_take_of_ne hno hne⟩
  · rw [Harness.take_core]
    exact (commandAnswer_of_exec hex).ctrl_eq
  · rw [Harness.take_stopped hno, hgo]
  · rw [Harness.take_of_isMask hno hm]
    exact ⟨lookupName_storeName_self .., rfl⟩
  · rw [Harness.take_of_not_isMask hno hm]
    exact ⟨lookupName_storeName_self .., rfl⟩

end Sys2Proof.Machine
end
